-- ==== Sys2Proof/Word.lean ====
section
/-! DEFINITION. The block's word and byte types (00_scope.md R7: every value is unsigned, bits are numbered from 0 at
the least significant bit). -/

namespace Sys2Proof

/-- A 32-bit register word, `BUS_BITS` of 00_scope.md R6. -/
abbrev Word := BitVec 32

/-- A byte of the key or of the hash input (00_scope.md R10). -/
abbrev Byte := BitVec 8

end Sys2Proof
end

