-- ==== Sys2Proof/Syntax.lean ====
section
/-! DEFINITION. The commands of 30_encoding.md R91, one constructor per row of spec/opcode_table.json. A command has no
operand field (R93): only the illegal words carry their bits. -/

namespace Sys2Proof

/-- A command word as the block reads it (30_encoding.md R90 to R92). -/
inductive Instr where
  /-- NOP, 43_control.md R180. -/
  | nop
  /-- HASH, 40_toeplitz.md R120. -/
  | hash
  /-- ENCODE_PAIR, 41_codec.md R141. -/
  | encodePair
  /-- ENCODE_TUPLE, 41_codec.md R142. -/
  | encodeTuple
  /-- BUILD_RETA, 42_reta.md R160. -/
  | buildReta
  /-- QUEUE_OF, 42_reta.md R163. -/
  | queueOf
  /-- ILLEGAL, 30_encoding.md R92: any word with `RSVD ≠ 0`, or with `OP` in 0x06..0xFF. -/
  | illegal (rsvd : BitVec 24) (op : BitVec 8)
  deriving DecidableEq, Repr

end Sys2Proof
end

