-- ==== Sys2Proof/WellFormed.lean ====
section
/-! DEFINITION. Which terms of `Instr` stand for a command word: an illegal word is one that no row above it in the
opcode map names (30_encoding.md R92). -/

namespace Sys2Proof

/-- An illegal word has a reserved bit set or an opcode in 0x06..0xFF (R92). -/
def illegalFields (rsvd : BitVec 24) (op : BitVec 8) : Bool :=
  rsvd != 0#24 || 6 ≤ op.toNat

/-- Every constructor without fields is well formed, and an illegal word carries illegal fields. -/
def Instr.wellFormed : Instr → Bool
  | .nop => true
  | .hash => true
  | .encodePair => true
  | .encodeTuple => true
  | .buildReta => true
  | .queueOf => true
  | .illegal rsvd op => illegalFields rsvd op

end Sys2Proof
end

