-- ==== Sys2Proof/Decode.lean ====
section
/-! DEFINITION. Decoding and encoding the 32-bit command word (30_encoding.md R90 to R95). Decoding is total: a word
that is none of the six commands is the table's row ILLEGAL, never a neighbour. -/

namespace Sys2Proof

/-- `RSVD = CMD[31:8]` (R90). -/
def rsvdField (v : Word) : BitVec 24 := v.extractLsb' 8 24

/-- `OP = CMD[7:0]` (R90). -/
def opField (v : Word) : BitVec 8 := v.extractLsb' 0 8

/-- The dispatch of R94: the reserved bits first, then the opcode. -/
def decode (v : Word) : Instr :=
  if rsvdField v ≠ 0#24 then .illegal (rsvdField v) (opField v)
  else match (opField v).toNat with
    | 0x00 => .nop
    | 0x01 => .hash
    | 0x02 => .encodePair
    | 0x03 => .encodeTuple
    | 0x04 => .buildReta
    | 0x05 => .queueOf
    | _ => .illegal (rsvdField v) (opField v)

/-- The command word of each row of R91, and the word an illegal term was read from. -/
def encode : Instr → Word
  | .nop => 0x00000000#32
  | .hash => 0x00000001#32
  | .encodePair => 0x00000002#32
  | .encodeTuple => 0x00000003#32
  | .buildReta => 0x00000004#32
  | .queueOf => 0x00000005#32
  | .illegal rsvd op => rsvd ++ op

/-- The number that `nbits` table bits of `w` make, the bits above them zero. -/
def tableValue (nbits w : Nat) : Nat := w % 2 ^ nbits

/-- The command word of a table row: one 32-bit word, which `CMD` receives whole (R95). -/
def tableWord (nbits w : Nat) : Word := BitVec.ofNat 32 (tableValue nbits w)

/-- The command that the decoder reads from the table bits `w`. A value that needs more than 32 bits is no command word
(R95), and nothing is read from it (log 12). -/
def decodeTableWord (nbits w : Nat) : Option Instr :=
  if tableValue nbits w < 2 ^ 32 then some (decode (tableWord nbits w)) else none

end Sys2Proof
end

