-- ==== Sys2Proof/Config.lean ====
section
/-! DEFINITION. The implementation parameters of 00_scope.md R6. The fixed rows are numerals with a name. The OPEN rows
(`BASE`, `LATENCY`, `RESET_STYLE`) are opaque constants: a claim about the block holds whatever they are. -/

namespace Sys2Proof

/-- The signal-level style of reset (`RESET_STYLE` of R6 and R240): synchronous or asynchronous, and its polarity. -/
structure ResetStyle where
  synchronous : Bool
  activeHigh : Bool
  deriving DecidableEq, Repr, Inhabited

namespace Config

/-- `KEY_BITS` (R6). -/
abbrev keyBits : Nat := 320

/-- `HASH_BITS` (R6). -/
abbrev hashBits : Nat := 32

/-- `WINDOW_BITS` (R6): the hash XORs in the top 32 bits of the working key. -/
abbrev windowBits : Nat := 32

/-- `MAX_LEN_BYTES` (R6): at most 320 input bits (90_conflicts.md C1). -/
abbrev maxLenBytes : Nat := 40

/-- `RETA_SIZE` (R6). -/
abbrev retaSize : Nat := 128

/-- `RETA_INDEX_MASK` (R6). -/
abbrev retaIndexMask : Word := 0x7F#32

/-- `MIN_QUEUES` (R6). -/
abbrev minQueues : Nat := 16

/-- `RETA_BLOCK` (R6): entries reversed per block. -/
abbrev retaBlock : Nat := 4

/-- `ENTRY_BITS` (R6). -/
abbrev entryBits : Nat := 7

/-- `PORT_BITS` (R6). -/
abbrev portBits : Nat := 16

/-- `WINDOW_BYTES` (R6, R60): offsets 0x000 to 0x3FF. -/
abbrev windowBytes : Nat := 1024

/-- Which 1 KiB-aligned window the platform gives the block. OPEN (R6, R61). -/
opaque windowIndex : Nat

/-- `BASE` (R61). DEDUCED: a multiple of `WINDOW_BYTES`, since host address `BASE + off` reaches offset `off` and the
block decodes only the low 10 bits of the address (log 5). -/
def base : Nat := windowBytes * windowIndex

/-- One less than the cycles that an access takes. OPEN (R6, R260). -/
opaque latencyBeyondOne : Nat

/-- `LATENCY` (R260), at least 1. No rule depends on it (log 6). -/
def latency : Nat := latencyBeyondOne + 1

/-- `RESET_STYLE` (R240). No rule depends on it (log 6). -/
opaque resetStyle : ResetStyle

end Config

end Sys2Proof
end

