-- ==== Sys2Proof/Machine/State.lean ====
section
/-! DEFINITION. The block's state (10_state.md R20), the events that reach it, the reasons a step can stop, and the
state after reset (R40). Plain data throughout. -/

namespace Sys2Proof.Machine

/-- The registers of the window by name (20_memory.md R62). -/
inductive Reg where
  | cmd
  | status
  | len
  | hash
  | queue
  | cpus
  | queues
  | srcIp
  | dstIp
  | srcPort
  | dstPort
  | key (w : Fin 10)
  | data (w : Fin 10)
  | reta (i : Fin 128)
  deriving DecidableEq, Repr

/-- One host access, `HostAccess(kind, off, size, v)` of 20_memory.md R65. `off` is the low 10 bits of the host address,
all that the block decodes (R61). `size` is in bytes, any number of them (log 17). -/
inductive Access where
  | read (off : BitVec 10) (size : Nat)
  | write (off : BitVec 10) (size : Nat) (v : Word)
  deriving DecidableEq, Repr

/-- What can reach the block from outside: a host access, or a reset, which falls between accesses and may interrupt
one (70_reset_and_hazards.md R240). -/
inductive Event where
  | access (a : Access)
  | reset (interrupted : Option Access)
  deriving DecidableEq, Repr

/-- The block's registers (R20), then the two fields of the model's own: the events to come and the words read. -/
structure State where
  /-- `CMD`, R23. -/
  cmd : Word
  /-- `STATUS.ERR`, R25. -/
  err : BitVec 8
  /-- `STATUS.RETA_VALID`, R26. -/
  retaValid : Bool
  /-- `STATUS.KEY_LOADED[9:0]`, R27. -/
  keyLoaded : BitVec 10
  /-- `LEN`, R28. -/
  len : Word
  /-- `HASH`, R29. -/
  hash : Word
  /-- `QUEUE[6:0]`, R30; the other bits are hardwired 0. -/
  queue : BitVec 7
  /-- `CPUS`, R31. -/
  cpus : Word
  /-- `QUEUES`, R32. -/
  queues : Word
  /-- `SRC_IP`, R36. -/
  srcIp : Word
  /-- `DST_IP`, R36. -/
  dstIp : Word
  /-- `SRC_PORT[15:0]`, R37. -/
  srcPort : BitVec 16
  /-- `DST_PORT[15:0]`, R37. -/
  dstPort : BitVec 16
  /-- `KEY0`..`KEY9`, R33. -/
  key : Vector Word 10
  /-- `DATA0`..`DATA9`, R35. -/
  data : Vector Word 10
  /-- Bits 6:0 of `RETA0`..`RETA127`, R34; the other bits are hardwired 0. -/
  reta : Vector (BitVec 7) 128
  /-- The model's own: the events still to come, in the order the bus delivers them (R71; DESIGN CHOICE, log 1). -/
  bus : List Event
  /-- The model's own: the words that reads have returned to the hosts, oldest first (R66; DESIGN CHOICE, log 3). -/
  returned : List Word
  deriving DecidableEq, Repr

/-- The access error of 20_memory.md R65, by its three grounds. Each is safe: R65 has a model treat an access error as a
fault of the host program, and it changes no state (log 4). -/
inductive Fault where
  /-- Raised by a host access that is misaligned or is not 32 bits wide (R64). Safe. -/
  | misalignedOrNotWord
  /-- Raised by a host access to an offset that R62 does not list. Safe. -/
  | unmappedOffset
  /-- Raised by a host write to `STATUS`, `QUEUE`, `QUEUES` or a `RETAi` (R65). Safe. -/
  | readOnlyRegister
  deriving DecidableEq, Repr

/-- Reasons the model gives an instruction no meaning. -/
inductive Refusal where
  /-- Raised by an arm of `exec` whose instruction has no meaning yet; no arm is left so. Safe: it proves nothing. -/
  | notModelled (mnemonic : String)
  deriving DecidableEq, Repr

/-- Every register at its value of 10_state.md R40, nothing waiting and nothing read (R241; logs 1 and 3 for the two
fields of the model's own). -/
def State.reset : State where
  cmd := 0
  err := 0
  retaValid := false
  keyLoaded := 0
  len := 0
  hash := 0
  queue := 0
  cpus := 0
  queues := 0
  srcIp := 0
  dstIp := 0
  srcPort := 0
  dstPort := 0
  key := Vector.replicate 10 0
  data := Vector.replicate 10 0
  reta := Vector.replicate 128 0
  bus := []
  returned := []

end Sys2Proof.Machine
end

