-- ==== Sys2Proof/Machine/Ops.lean ====
section
/-! DEFINITION. The named updates of the registers, the end of a command (success, or `raise E(code)` of
60_exceptions.md R203), and the register map (20_memory.md R62). -/

namespace Sys2Proof.Machine

namespace State

/-- A host write stores the command word in `CMD` before it runs (10_state.md R23). -/
def setCmd (s : State) (v : Word) : State := { s with cmd := v }

/-- Write `STATUS.ERR` (10_state.md R25). -/
def setErr (s : State) (c : BitVec 8) : State := { s with err := c }

def setLen (s : State) (v : Word) : State := { s with len := v }

def setHash (s : State) (v : Word) : State := { s with hash := v }

/-- Write the seven bits of `QUEUE` that exist (10_state.md R30). -/
def setQueue (s : State) (q : BitVec 7) : State := { s with queue := q }

def setCpus (s : State) (v : Word) : State := { s with cpus := v }

def setSrcIp (s : State) (v : Word) : State := { s with srcIp := v }

def setDstIp (s : State) (v : Word) : State := { s with dstIp := v }

/-- Bits 31:16 of the written word are discarded (10_state.md R37). -/
def setSrcPort (s : State) (v : Word) : State := { s with srcPort := v.extractLsb' 0 16 }

/-- Bits 31:16 of the written word are discarded (10_state.md R37). -/
def setDstPort (s : State) (v : Word) : State := { s with dstPort := v.extractLsb' 0 16 }

/-- A host write to `KEYw` stores the word and sets `KEY_LOADED[w]` (10_state.md R27, R33). -/
def loadKey (s : State) (w : Fin 10) (v : Word) : State :=
  { s with key := s.key.set w v, keyLoaded := s.keyLoaded ||| BitVec.twoPow 10 w }

def setData (s : State) (w : Fin 10) (v : Word) : State := { s with data := s.data.set w v }

/-- A successful build writes all 128 entries, `QUEUES` and `RETA_VALID` at once (10_state.md R26, R32, R34). -/
def installTable (s : State) (q : Word) (t : Vector (BitVec 7) 128) : State :=
  { s with reta := t, queues := q, retaValid := true }

def setBus (s : State) (es : List Event) : State := { s with bus := es }

/-- A performed read hands its word to the host (20_memory.md R66). -/
def pushReturned (s : State) (v : Word) : State := { s with returned := s.returned ++ [v] }

/-- The reset event sets every register to its value of R40 (70_reset_and_hazards.md R240). It is no access: what still
waits on the bus and what the hosts have read are the hosts' (log 7). -/
def resetRegisters (s : State) : State := { State.reset with bus := s.bus, returned := s.returned }

end State

/-- The error kinds of 60_exceptions.md R201. -/
inductive ErrorKind where
  | invalidInputLength
  | invalidCoreCount
  | keyNotLoaded
  | retaNotBuilt
  | illegalCommand
  deriving DecidableEq, Repr

/-- The outcome code of each kind (R201). Code 0 is success. -/
def errorCode : ErrorKind → BitVec 8
  | .invalidInputLength => 1
  | .invalidCoreCount => 2
  | .keyNotLoaded => 3
  | .retaNotBuilt => 4
  | .illegalCommand => 5

/-- `raise E(code)` (R203): `STATUS.ERR` takes the code and the command ends with none of its other writes. This is all
there is to taking an error on this hardware (R205), and there is no return from one (R206). -/
def State.raise (s : State) (e : ErrorKind) : Host.Outcome State Fault Refusal :=
  .next (s.setErr (errorCode e))

/-- A command that does not raise ends by writing `ERR <- 0`, its last effect (30_encoding.md R94, R202). -/
def State.succeed (s : State) : Host.Outcome State Fault Refusal :=
  .next (s.setErr 0)

/-- The offset of a register in the window (20_memory.md R62). -/
def regOffset : Reg → BitVec 10
  | .cmd => 0x000
  | .status => 0x004
  | .len => 0x008
  | .hash => 0x00C
  | .queue => 0x010
  | .cpus => 0x014
  | .queues => 0x018
  | .srcIp => 0x01C
  | .dstIp => 0x020
  | .srcPort => 0x024
  | .dstPort => 0x028
  | .key w => BitVec.ofNat 10 (0x040 + 4 * w)
  | .data w => BitVec.ofNat 10 (0x080 + 4 * w)
  | .reta i => BitVec.ofNat 10 (0x200 + 4 * i)

/-- The word of a register array, `words` long from offset `first`, that `off` names, if any. -/
def arrayIndex (first words off : Nat) : Option (Fin words) :=
  if h : first ≤ off ∧ (off - first) / 4 < words ∧ off % 4 = 0 then some ⟨(off - first) / 4, h.2.1⟩ else none

/-- The arrays of R62: `KEY` from 0x040, `DATA` from 0x080, `RETA` from 0x200. Every other offset above 0x028 is
unmapped. -/
def arrayAt (off : Nat) : Option Reg :=
  (arrayIndex 0x040 10 off).map .key
    <|> (arrayIndex 0x080 10 off).map .data
    <|> (arrayIndex 0x200 128 off).map .reta

/-- The register at an offset, `none` where R62 lists none. -/
def regAt (off : BitVec 10) : Option Reg :=
  match off.toNat with
  | 0x000 => some .cmd
  | 0x004 => some .status
  | 0x008 => some .len
  | 0x00C => some .hash
  | 0x010 => some .queue
  | 0x014 => some .cpus
  | 0x018 => some .queues
  | 0x01C => some .srcIp
  | 0x020 => some .dstIp
  | 0x024 => some .srcPort
  | 0x028 => some .dstPort
  | n => arrayAt n

/-- The read-only registers: `STATUS`, `QUEUE`, `QUEUES` and every `RETAi` (20_memory.md R65). -/
def readOnly : Reg → Bool
  | .status => true
  | .queue => true
  | .queues => true
  | .reta _ => true
  | _ => false

/-- The offset a host address reaches: the block decodes its low 10 bits (20_memory.md R61). -/
def hostOffset (addr : Nat) : BitVec 10 := BitVec.ofNat 10 addr

end Sys2Proof.Machine
end

