-- ==== Sys2Proof/Machine/Flags.lean ====
section
/-! DEFINITION. `STATUS`, the block's only flags (10_state.md R24, R38), and what the commands ask of them. -/

namespace Sys2Proof.Machine

/-- `STATUS` as the host reads it (R24): `KEY_LOADED` in 25:16, `RETA_VALID` in 8, `ERR` in 7:0, all else hardwired 0. -/
def statusWord (s : State) : Word :=
  0#6 ++ s.keyLoaded ++ 0#7 ++ BitVec.ofBool s.retaValid ++ s.err

/-- All ten words of `KEY` have been written since reset (10_state.md R27). -/
def keyFullyLoaded (s : State) : Bool := s.keyLoaded == 0b1111111111#10

end Sys2Proof.Machine
end

