-- ==== Sys2Proof/Machine/Operands.lean ====
section
/-! DEFINITION. The implicit operands of the commands (30_encoding.md R93), the byte views of 00_scope.md R10, and a
register's value as a host reads it (20_memory.md R66). -/

namespace Sys2Proof.Machine

/-- Byte `i mod 4` of a word, byte 0 in bits 31:24 (00_scope.md R10: big-endian packing, 20_memory.md R68). -/
def wordByte (v : Word) (i : Nat) : Byte := v.extractLsb' (24 - 8 * (i % 4)) 8

/-- Byte `i` of an array of ten words, `i` in 0..39 (R10). There is no byte 40: the index past the end reads 0 and is
never used, since HASH takes at most 40 bytes (log 11). -/
def arrayByte (a : Vector Word 10) (i : Nat) : Byte := wordByte (a[i / 4]?.getD 0) i

/-- `DataByte(i)` (R10). -/
def dataByte (s : State) (i : Nat) : Byte := arrayByte s.data i

/-- `KeyByte(i)` (R10). -/
def keyByte (s : State) (i : Nat) : Byte := arrayByte s.key i

/-- `KEY[0] ++ KEY[1] ++ ... ++ KEY[9]` (R10), `KEY0` most significant (20_memory.md R69). -/
def joinKey (k : Vector Word 10) : BitVec 320 :=
  k[0] ++ k[1] ++ k[2] ++ k[3] ++ k[4] ++ k[5] ++ k[6] ++ k[7] ++ k[8] ++ k[9]

/-- `KeyValue` (R10). -/
def keyValue (s : State) : BitVec 320 := joinKey s.key

/-- `[DataByte(0), ..., DataByte(n-1)]`, the input of a hash of `n` bytes (40_toeplitz.md R120). -/
def hashInput (s : State) (n : Nat) : List Byte := (List.range n).map (dataByte s)

/-- The slot that QUEUE_OF reads: `x[HASH][6:0]` (42_reta.md R163). -/
def retaSlot (h : Word) : Fin 128 := (h.extractLsb' 0 7).toFin

/-- The register's value, hardwired-zero bits reading 0 (20_memory.md R66). -/
def regRead (s : State) : Reg → Word
  | .cmd => s.cmd
  | .status => statusWord s
  | .len => s.len
  | .hash => s.hash
  | .queue => s.queue.setWidth 32
  | .cpus => s.cpus
  | .queues => s.queues
  | .srcIp => s.srcIp
  | .dstIp => s.dstIp
  | .srcPort => s.srcPort.setWidth 32
  | .dstPort => s.dstPort.setWidth 32
  | .key w => s.key[w]
  | .data w => s.data[w]
  | .reta i => s.reta[i].setWidth 32

end Sys2Proof.Machine
end

