-- ==== Sys2Proof/Machine/Codec.lean ====
section
/-! DEFINITION. The IPv4/port address codec (41_codec.md): ENCODE_PAIR and ENCODE_TUPLE. -/

namespace Sys2Proof.Machine

/-- The source address, then the destination address, into the first two words of the hash input (R141, R142). -/
def State.putAddresses (s : State) : State := (s.setData 0 s.srcIp).setData 1 s.dstIp

/-- `x[SRC_PORT][15:0] ++ x[DST_PORT][15:0]` (R142). -/
def portPair (s : State) : Word := s.srcPort ++ s.dstPort

/-- ENCODE_PAIR (R141): the 8 bytes of the address pair. -/
def execEncodePair (s : State) : Host.Outcome State Fault Refusal :=
  (s.putAddresses.setLen 8).succeed

/-- ENCODE_TUPLE (R142): the 12 bytes of the 4-tuple, for TCP and UDP alike. -/
def execEncodeTuple (s : State) : Host.Outcome State Fault Refusal :=
  ((s.putAddresses.setData 2 (portPair s)).setLen 12).succeed

end Sys2Proof.Machine
end

