-- ==== Sys2Proof/Machine/Control.lean ====
section
/-! DEFINITION. NOP (43_control.md R180) and the illegal command word (30_encoding.md R92). -/

namespace Sys2Proof.Machine

/-- NOP reports success and changes nothing else (R180). -/
def execNop (s : State) : Host.Outcome State Fault Refusal := s.succeed

/-- An illegal word runs nothing and reports IllegalCommand, whatever its bits (R92). `CMD` already holds the word. -/
def execIllegal (_rsvd : BitVec 24) (_op : BitVec 8) (s : State) : Host.Outcome State Fault Refusal :=
  s.raise .illegalCommand

end Sys2Proof.Machine
end

