-- ==== Sys2Proof/Machine/Reta.lean ====
section
/-! DEFINITION. The redirection table (42_reta.md): its constructor BUILD_RETA and its lookup QUEUE_OF. -/

namespace Sys2Proof.Machine

/-- `max(16, onlineCPUs)` (R160, R162 step 1). -/
def queueCount (cpus : Word) : Nat := max Config.minQueues cpus.toNat

/-- `j(i) = 4*(i div 4) + 3 - (i mod 4)` (R161): the order within each block of 4 reversed. -/
def reversedIndex (i : Nat) : Nat := 4 * (i / 4) + 3 - i % 4

/-- `RetaEntry(i, q)` (R161). R161 defines it for `i` in 0..127 and `q >= 16`; elsewhere it is the same formula (DESIGN
CHOICE, log 19), which no command uses. -/
def retaEntry (i q : Nat) : Nat := reversedIndex i % q

/-- The 128 entries for `q` queues, 7 bits each (R160). -/
def retaTable (q : Nat) : Vector (BitVec 7) 128 :=
  Vector.ofFn fun i => BitVec.ofNat 7 (retaEntry i q)

/-- BUILD_RETA (R160). -/
def execBuildReta (s : State) : Host.Outcome State Fault Refusal :=
  if s.cpus = 0 then s.raise .invalidCoreCount
  else (s.installTable (BitVec.ofNat 32 (queueCount s.cpus)) (retaTable (queueCount s.cpus))).succeed

/-- QUEUE_OF (R163). -/
def execQueueOf (s : State) : Host.Outcome State Fault Refusal :=
  if !s.retaValid then s.raise .retaNotBuilt
  else (s.setQueue s.reta[retaSlot s.hash]).succeed

/-- The round-robin sequence of R162 step 2, its first 128 values. -/
def roundRobin (q : Nat) : List Nat := (List.range Config.retaSize).map (· % q)

/-- Each contiguous block of 4 reversed in place (R162 step 3). R162 has 32 whole blocks; a last shorter block, which its
128 values do not leave, is reversed too (DESIGN CHOICE, log 19). -/
def reverseBlocks : List Nat → List Nat
  | a :: b :: c :: d :: rest => d :: c :: b :: a :: reverseBlocks rest
  | short => short.reverse

/-- The source's three-step algorithm (R162), for `q` queues. -/
def threeStepTable (q : Nat) : List Nat := reverseBlocks (roundRobin q)

end Sys2Proof.Machine
end

