-- ==== Sys2Proof/Machine/Toeplitz.lean ====
section
/-! DEFINITION. The Toeplitz hash engine (40_toeplitz.md): the function of R121, bit by bit, and the HASH command of
R120. -/

namespace Sys2Proof.Machine

/-- The hidden state of a HASH command (10_state.md R41): it exists only inside the command. -/
structure Engine where
  /-- `WK`, the working key. -/
  wk : BitVec 320
  /-- `ACC`, the accumulator. -/
  acc : Word
  deriving DecidableEq, Repr

/-- `WK[319:288]`, the top 32 bits of the working key (R121). -/
def Engine.window (e : Engine) : Word := e.wk.extractLsb' 288 32

/-- One input bit (R121): XOR the window in if the bit is 1, then shift the working key left by 1 in either case, with 0
into bit 0. -/
def Engine.feedBit (e : Engine) (b : Bool) : Engine where
  wk := e.wk <<< 1
  acc := if b then e.acc ^^^ e.window else e.acc

/-- The bits of a byte, bit 7 first (R121, 20_memory.md R68). -/
def byteBits (b : Byte) : List Bool := [7, 6, 5, 4, 3, 2, 1, 0].map b.getLsbD

/-- One input byte, its bits in order (R121). -/
def Engine.feedByte (e : Engine) (b : Byte) : Engine := (byteBits b).foldl Engine.feedBit e

/-- `Toeplitz(K, d)` (R121): the working copy starts as the key and the accumulator as 0. R121 defines it for at most 40
bytes. On a longer list the function goes on with the same step, whose windows from bit 320 on are all zero (DESIGN CHOICE,
log 18); no command hashes one. -/
def toeplitz (k : BitVec 320) (d : List Byte) : Word :=
  (d.foldl Engine.feedByte { wk := k, acc := 0 }).acc

/-- HASH (R120): the key is checked before the length (60_exceptions.md R204), and both before any write. -/
def execHash (s : State) : Host.Outcome State Fault Refusal :=
  if !keyFullyLoaded s then s.raise .keyNotLoaded
  else if Config.maxLenBytes < s.len.toNat then s.raise .invalidInputLength
  else (s.setHash (toeplitz (keyValue s) (hashInput s s.len.toNat))).succeed

end Sys2Proof.Machine
end

