-- ==== Sys2Proof/Machine/Dispatch.lean ====
section
/-! DEFINITION. The dispatch of 30_encoding.md R94, one arm per command. -/

namespace Sys2Proof.Machine

/-- The effect of a command on the state that already holds its word in `CMD` (R94). -/
def exec (i : Instr) (s : State) : Host.Outcome State Fault Refusal :=
  match i with
  | .nop => Sys2Proof.Machine.execNop s
  | .hash => Sys2Proof.Machine.execHash s
  | .encodePair => Sys2Proof.Machine.execEncodePair s
  | .encodeTuple => Sys2Proof.Machine.execEncodeTuple s
  | .buildReta => Sys2Proof.Machine.execBuildReta s
  | .queueOf => Sys2Proof.Machine.execQueueOf s
  | .illegal rsvd op => Sys2Proof.Machine.execIllegal rsvd op s

end Sys2Proof.Machine
end

