-- ==== Sys2Proof/Machine/Bus.lean ====
section
/-! DEFINITION. The register bus: a host access as 20_memory.md R63 to R67 performs it, and the events of
70_reset_and_hazards.md R240. -/

namespace Sys2Proof.Machine

/-- `Execute(v)` (30_encoding.md R94), `v` already stored in `CMD`. -/
def execute (v : Word) (s : State) : Host.Outcome State Fault Refusal := exec (Sys2Proof.decode v) s

/-- `RegWrite` (20_memory.md R67). A write to a read-only register is not performed (R65). -/
def regWrite (r : Reg) (v : Word) (s : State) : Host.Outcome State Fault Refusal :=
  match r with
  | .cmd => execute v (s.setCmd v)
  | .len => .next (s.setLen v)
  | .hash => .next (s.setHash v)
  | .cpus => .next (s.setCpus v)
  | .srcIp => .next (s.setSrcIp v)
  | .dstIp => .next (s.setDstIp v)
  | .srcPort => .next (s.setSrcPort v)
  | .dstPort => .next (s.setDstPort v)
  | .key w => .next (s.loadKey w v)
  | .data w => .next (s.setData w v)
  | .status => .fault .readOnlyRegister
  | .queue => .fault .readOnlyRegister
  | .queues => .fault .readOnlyRegister
  | .reta _ => .fault .readOnlyRegister

/-- The offset of an access. -/
def Access.off : Access → BitVec 10
  | .read off _ => off
  | .write off _ _ => off

/-- The width of an access in bytes. -/
def Access.size : Access → Nat
  | .read _ size => size
  | .write _ size _ => size

/-- A word access at a multiple of 4 (20_memory.md R63, R64). -/
def Access.alignedWord (a : Access) : Bool := a.size == 4 && a.off.extractLsb' 0 2 == 0#2

/-- `HostAccess(kind, off, size, v)` (20_memory.md R65): the checks in its order, then the read or the write. -/
def hostAccess (a : Access) (s : State) : Host.Outcome State Fault Refusal :=
  if !a.alignedWord then .fault .misalignedOrNotWord
  else match regAt a.off, a with
    | none, _ => .fault .unmappedOffset
    | some r, .read _ _ => .next (s.pushReturned (regRead s r))
    | some r, .write _ _ v => regWrite r v s

/-- One event: an access is performed whole (20_memory.md R70), and a reset sets the registers and performs no access,
the one it interrupts among them (70_reset_and_hazards.md R240, R241). -/
def perform (e : Event) (s : State) : Host.Outcome State Fault Refusal :=
  match e with
  | .access a => hostAccess a s
  | .reset _ => .next s.resetRegisters

end Sys2Proof.Machine
end

