-- ==== Sys2Proof/Machine/Step.lean ====
section
/-! DEFINITION. One step: the block takes the next event off the bus and performs it (00_scope.md R5, 20_memory.md
R71). -/

namespace Sys2Proof.Machine

/-- One event, in bus order. With nothing waiting the block is idle and keeps all its state (60_exceptions.md R216). -/
def step (s : State) : Host.Outcome State Fault Refusal :=
  match s.bus with
  | [] => .next s
  | e :: rest => perform e (s.setBus rest)

/-- `s` with a `CMD` write of the table's word as the next access (a command reaches the block in no other way,
10_state.md R21; log 1). -/
def State.withFetchWord (s : State) (nbits w : Nat) : State :=
  s.setBus (.access (.write (regOffset .cmd) 4 (Sys2Proof.tableWord nbits w)) :: s.bus)

end Sys2Proof.Machine
end

