-- ==== Sys2Proof/Machine/HostAsm.lean ====
section
/-! DEFINITION. The host assembly of 30_encoding.md R100 to R103: each line and pseudo-instruction as the list of bus
accesses it stands for. Control flow between lines is the host's (R100). -/

namespace Sys2Proof.Machine

/-- One line of a host program (R100, R101, R102). -/
inductive AsmLine where
  /-- `WR <reg>, <value>`. -/
  | wr (r : Reg) (v : Word)
  /-- `RD <reg> -> <name>`. -/
  | rd (r : Reg)
  /-- A command mnemonic alone on a line (R101). R101 lists the six commands; a line for an illegal term is the model's
  (DESIGN CHOICE, log 16). -/
  | command (i : Instr)
  | ldKey (k : BitVec 320)
  | ldData (bytes : List Byte)
  | setIp (a b c d e f g h : Byte)
  | setPort (sp dp : Word)
  | lookup
  | check
  deriving DecidableEq, Repr

/-- `WR`: `MemWrite(offset(reg), 4, value)` (R100). -/
def asmWrite (r : Reg) (v : Word) : Access := .write (regOffset r) 4 v

/-- `RD`: `MemRead(offset(reg), 4)` (R100). -/
def asmRead (r : Reg) : Access := .read (regOffset r) 4

/-- A mnemonic: `WR CMD, <command word>` (R101). For an illegal term, which R101 gives no line, the word it was read from
(DESIGN CHOICE, log 16). -/
def asmCommand (i : Instr) : Access := asmWrite .cmd (Sys2Proof.encode i)

/-- `k[319-32*w : 288-32*w]`, the word of the key that `KEYw` takes (R102). -/
def keyWord (k : BitVec 320) (w : Fin 10) : Word := k.extractLsb' (288 - 32 * w) 32

/-- Word `w` of a byte string, missing bytes taken as 0 (R102). -/
def packWord (bytes : List Byte) (w : Nat) : Word :=
  bytes.getD (4 * w) 0 ++ bytes.getD (4 * w + 1) 0 ++ bytes.getD (4 * w + 2) 0 ++ bytes.getD (4 * w + 3) 0

/-- The data words that `n` bytes need, `w = 0 .. ceil(n/4)-1` (R102). -/
def dataWordsFor (n : Nat) : List (Fin 10) := (List.finRange 10).filter fun w => 4 * w.val < n

/-- The accesses a line stands for (R100 to R102). `LDDATA` takes at most 40 bytes (R102): a longer one is no line of the
language (log 16). A `.command` of an illegal term is no line of R101 either, and the model expands it to the `CMD` write of
its word (DESIGN CHOICE, log 16). -/
def expandLine : AsmLine → Option (List Access)
  | .wr r v => some [asmWrite r v]
  | .rd r => some [asmRead r]
  | .command i => some [asmCommand i]
  | .ldKey k => some ((List.finRange 10).map fun w => asmWrite (.key w) (keyWord k w))
  | .ldData bytes =>
    if bytes.length ≤ 40 then
      some ((dataWordsFor bytes.length).map (fun w => asmWrite (.data w) (packWord bytes w))
        ++ [asmWrite .len (BitVec.ofNat 32 bytes.length)])
    else none
  | .setIp a b c d e f g h => some [asmWrite .srcIp (a ++ b ++ c ++ d), asmWrite .dstIp (e ++ f ++ g ++ h)]
  | .setPort sp dp => some [asmWrite .srcPort sp, asmWrite .dstPort dp]
  | .lookup => some [asmCommand .encodeTuple, asmCommand .hash, asmCommand .queueOf, asmRead .queue]
  | .check => some [asmRead .status]

/-- `CHECK` lets the host go on when `s[7:0] = 0` (R102). -/
def checkPasses (status : Word) : Bool := status.extractLsb' 0 8 == 0#8

/-- The state with a host's accesses waiting after those already there (R103). -/
def State.queueAccesses (s : State) (as : List Access) : State := s.setBus (s.bus ++ as.map .access)

end Sys2Proof.Machine
end

