-- ==== Sys2Proof/Safety.lean ====
section
/-! DEFINITION. The terms that claims about the block are stated in: the accesses it performs, runs over the bus, the
interleavings of two hosts, which registers a command reads and writes, and the invariant of the registers. -/

namespace Sys2Proof.Machine

/-- The block performs the access (20_memory.md R65): an aligned word, at a mapped offset, and no write to a read-only
register. Any other access gets the access error. -/
def Access.performs (a : Access) : Bool :=
  a.alignedWord &&
    match regAt a.off, a with
    | none, _ => false
    | some _, .read _ _ => true
    | some r, .write _ _ _ => !readOnly r

/-- A reset is always performed, and an access when the block performs it. -/
def Event.performs : Event → Bool
  | .access a => a.performs
  | .reset _ => true

/-- `k` steps from `s` end in `t` without an access error: the only successful end of a run (20_memory.md R65). -/
def RunsTo (k : Nat) (s t : State) : Prop := Host.Core.run Sys2Proof.core k s = .next t

/-- The event is a word write of `v` to the register `r`. -/
def Event.isWrite (r : Reg) (v : Word) (e : Event) : Bool := e == .access (.write (regOffset r) 4 v)

/-- The event is a word write to the register `r`. -/
def Event.writes (r : Reg) : Event → Bool
  | .access (.write off size _) => off == regOffset r && size == 4
  | _ => false

/-- The event is a reset. -/
def Event.isReset : Event → Bool
  | .reset _ => true
  | _ => false

/-- The event is a read that the block performs. -/
def Event.isPerformedRead : Event → Bool
  | .access (.read off size) => Access.performs (.read off size)
  | _ => false

/-- The next event on the bus has the property. -/
def State.nextEvent (s : State) (p : Event → Bool) : Bool := s.bus.head?.any p

/-- `zs` is one bus order of the two hosts' sequences `xs` and `ys` (20_memory.md R71). -/
inductive Interleaves {α : Type} : List α → List α → List α → Prop where
  | done : Interleaves [] [] []
  | first {x : α} {xs ys zs : List α} : Interleaves xs ys zs → Interleaves (x :: xs) ys (x :: zs)
  | second {y : α} {xs ys zs : List α} : Interleaves xs ys zs → Interleaves xs (y :: ys) (y :: zs)

/-- `KEY_LOADED[w]` after the events, from its value before them (10_state.md R27). -/
def keyBitAfter (w : Fin 10) : Bool → List Event → Bool
  | b, [] => b
  | b, e :: es => keyBitAfter w (if e.isReset then false else b || e.writes (.key w)) es

/-- The two states hold the same registers. -/
def SameRegisters (s t : State) : Prop := ∀ r, regRead t r = regRead s r

/-- The registers a command may write (30_encoding.md R93). -/
def mayWrite : Instr → Reg → Bool
  | .nop, r => r == .status
  | .hash, r => r == .hash || r == .status
  | .encodePair, r => r == .data 0 || r == .data 1 || r == .len || r == .status
  | .encodeTuple, r => r == .data 0 || r == .data 1 || r == .data 2 || r == .len || r == .status
  | .buildReta, r => r == .queues || r == .status || match r with | .reta _ => true | _ => false
  | .queueOf, r => r == .queue || r == .status
  | .illegal _ _, r => r == .status

/-- The two states hold the same operands of the command (30_encoding.md R93). -/
def SameOperands : Instr → State → State → Prop
  | .nop, _, _ => True
  | .hash, s, t =>
    s.keyLoaded = t.keyLoaded ∧ s.len = t.len ∧ s.key = t.key ∧ ∀ i < s.len.toNat, dataByte s i = dataByte t i
  | .encodePair, s, t => s.srcIp = t.srcIp ∧ s.dstIp = t.dstIp
  | .encodeTuple, s, t =>
    s.srcIp = t.srcIp ∧ s.dstIp = t.dstIp ∧ s.srcPort = t.srcPort ∧ s.dstPort = t.dstPort
  | .buildReta, s, t => s.cpus = t.cpus
  | .queueOf, s, t =>
    s.retaValid = t.retaValid ∧ s.hash = t.hash ∧ s.reta[retaSlot s.hash] = t.reta[retaSlot s.hash]
  | .illegal _ _, _, _ => True

/-- The four octets of an IPv4 address, the first dotted component first (41_codec.md R140). -/
def octets (ip : Word) : List Byte :=
  [ip.extractLsb' 24 8, ip.extractLsb' 16 8, ip.extractLsb' 8 8, ip.extractLsb' 0 8]

/-- The two bytes of a port, high byte first (41_codec.md R142). -/
def portBytes (p : BitVec 16) : List Byte := [p.extractLsb' 8 8, p.extractLsb' 0 8]

/-- What every reachable state satisfies: the error code is one of R201's, a key word never written since reset is 0
(R27, R33), without a table its registers hold their reset values, and with one they hold what BUILD_RETA built for
`QUEUES` queues (R26, R32, R34, R160). -/
structure State.Inv (s : State) : Prop where
  err_legal : s.err.toNat ≤ 5
  key_unwritten : ∀ w : Fin 10, s.keyLoaded.getLsbD w = false → s.key[w] = 0
  no_table : s.retaValid = false → s.queues = 0 ∧ s.queue = 0 ∧ ∀ i : Fin 128, s.reta[i] = 0
  table : s.retaValid = true →
    16 ≤ s.queues.toNat ∧ ∀ i : Fin 128, (s.reta[i]).toNat = retaEntry i s.queues.toNat

end Sys2Proof.Machine
end

