-- ==== Sys2Proof/Certificates/Slice0/Obligations.lean ====
section
/-! DEFINITION. The statements about the block, from the numbered rules of spec/. A register update is written as a
record, so that everything a command leaves unchanged is said with what it changes. Wherever a statement names the field
`bus`, the way events wait is the model's choice (log 1); wherever it names `returned`, so is the trace of the words read
(log 3). -/

open Sys2Proof Sys2Proof.Machine

-- ## Encoding and decoding

/-- R91, R92: the command words of the opcode map, and words at the edges of the illegal space. -/
def Obligations.OpcodeMapWordsDecode : Prop :=
  decode 0x00000000#32 = .nop ∧ decode 0x00000001#32 = .hash ∧ decode 0x00000002#32 = .encodePair ∧
  decode 0x00000003#32 = .encodeTuple ∧ decode 0x00000004#32 = .buildReta ∧ decode 0x00000005#32 = .queueOf ∧
  decode 0x00000006#32 = .illegal 0 0x06 ∧ decode 0x000000FF#32 = .illegal 0 0xFF ∧
  decode 0x00000100#32 = .illegal 1 0x00 ∧ decode 0x80000005#32 = .illegal 0x800000 0x05 ∧
  decode 0xFFFFFFFF#32 = .illegal 0xFFFFFF 0xFF

/-- R90, R91, R94, R95: no bit of an encoding is dropped. -/
def Obligations.DecodeOfEncodeIsTheCommand : Prop :=
  ∀ i : Instr, i.wellFormed = true → decode (encode i) = i

/-- R92, R95: every word is one command, legal or illegal, and the word can be read back from it. -/
def Obligations.EveryWordHasOneCommand : Prop :=
  ∀ v : Word, (decode v).wellFormed = true ∧ encode (decode v) = v ∧
    ∀ i : Instr, i.wellFormed = true → encode i = v → i = decode v

/-- R92: an illegal word sets `ERR` to 5 and changes nothing else (`CMD` still holds it), and every other word is one of
the six commands. That `exec` does the same on an ill-formed illegal term, which no word decodes to, is the model's choice
(log 10). -/
def Obligations.IllegalWordReportsFive : Prop :=
  (∀ (rsvd : BitVec 24) (op : BitVec 8) (s : State), exec (.illegal rsvd op) s = .next { s with err := 5 }) ∧
  ∀ (s : State) (v : Word) (rest : List Event), s.bus = .access (.write 0x000 4 v) :: rest →
    ((v.extractLsb' 8 24 ≠ 0 ∨ 6 ≤ (v.extractLsb' 0 8).toNat) →
      step s = .next { s with bus := rest, cmd := v, err := 5 }) ∧
    (¬(v.extractLsb' 8 24 ≠ 0 ∨ 6 ≤ (v.extractLsb' 0 8).toNat) →
      decode v ∈ [.nop, .hash, .encodePair, .encodeTuple, .buildReta, .queueOf])

-- ## The step, the bus and the register map

/-- R23, R70, R94: a `CMD` write stores the word and runs the command it decodes to, in one step. -/
def Obligations.StepRunsTheDecodedCommand : Prop :=
  ∀ (s : State) (v : Word) (rest : List Event), s.bus = .access (.write 0x000 4 v) :: rest →
    step s = exec (decode v) { s with bus := rest, cmd := v }

/-- R101: a mnemonic on a line is the `CMD` write that runs that command. That an illegal term has such a line too is the
model's choice (log 16). -/
def Obligations.MnemonicLineRunsItsCommand : Prop :=
  ∀ (s : State) (i : Instr) (rest : List Event), i.wellFormed = true →
    expandLine (.command i) = some [asmCommand i] ∧
    step { s with bus := .access (asmCommand i) :: rest } = exec i { s with bus := rest, cmd := encode i }

/-- R91, R94: the command that the decoder reads from a table row's bits is the one that the next step runs. Two choices of
the model stand in it: how a command is placed (log 1), and that the word is the low `nbits` bits of `w` whatever `nbits` is
(log 12; R95 knows 32-bit words only). -/
def Obligations.TableWordReachesTheDecoder : Prop :=
  ∀ (s : State) (nbits w : Nat) (i : Instr), decodeTableWord nbits w = some i →
    step (s.withFetchWord nbits w) = exec i { s with cmd := BitVec.ofNat 32 (w % 2 ^ nbits) } ∧
    (nbits = 32 → encode i = BitVec.ofNat 32 w)

/-- R61, with the model's choice of an aligned window (log 5): host address `BASE + off` reaches offset `off`. -/
def Obligations.HostAddressReachesItsOffset : Prop :=
  ∀ off : Nat, off < 1024 → (hostOffset (Config.base + off)).toNat = off

/-- R62: the offset of every register, and the offsets that no register has. -/
def Obligations.RegisterMap : Prop :=
  regAt 0x000 = some .cmd ∧ regAt 0x004 = some .status ∧ regAt 0x008 = some .len ∧ regAt 0x00C = some .hash ∧
  regAt 0x010 = some .queue ∧ regAt 0x014 = some .cpus ∧ regAt 0x018 = some .queues ∧
  regAt 0x01C = some .srcIp ∧ regAt 0x020 = some .dstIp ∧ regAt 0x024 = some .srcPort ∧ regAt 0x028 = some .dstPort ∧
  (∀ w : Fin 10, regAt (BitVec.ofNat 10 (0x040 + 4 * w)) = some (.key w)) ∧
  (∀ w : Fin 10, regAt (BitVec.ofNat 10 (0x080 + 4 * w)) = some (.data w)) ∧
  (∀ i : Fin 128, regAt (BitVec.ofNat 10 (0x200 + 4 * i)) = some (.reta i)) ∧
  ∀ off : BitVec 10, regAt off = none ↔
    (off.toNat % 4 ≠ 0 ∨ (0x02C ≤ off.toNat ∧ off.toNat ≤ 0x03F) ∨ (0x068 ≤ off.toNat ∧ off.toNat ≤ 0x07F) ∨
      (0x0A8 ≤ off.toNat ∧ off.toNat ≤ 0x1FF))

/-- R62: a register answers at its offset and at no other. -/
def Obligations.EveryRegisterHasOneOffset : Prop :=
  ∀ (off : BitVec 10) (r : Reg), regAt off = some r ↔ off = regOffset r

/-- R64: a misaligned access, or one that is not 32 bits wide, is not performed. -/
def Obligations.MisalignedOrNarrowAccessFaults : Prop :=
  ∀ (s : State) (a : Access) (rest : List Event), s.bus = .access a :: rest →
    (a.size ≠ 4 ∨ a.off.toNat % 4 ≠ 0) → step s = .fault .misalignedOrNotWord

/-- R62, R65: a word access to an unmapped offset, and a word write to a read-only register, are access errors. -/
def Obligations.UnmappedAndReadOnlyAccessesFault : Prop :=
  ∀ (s : State) (off : BitVec 10) (v : Word) (rest : List Event), off.toNat % 4 = 0 →
    (regAt off = none →
      step { s with bus := .access (.read off 4) :: rest } = .fault .unmappedOffset ∧
      step { s with bus := .access (.write off 4 v) :: rest } = .fault .unmappedOffset) ∧
    ((off = 0x004 ∨ off = 0x010 ∨ off = 0x018 ∨ 0x200 ≤ off.toNat) →
      step { s with bus := .access (.write off 4 v) :: rest } = .fault .readOnlyRegister)

/-- R63 to R67, R200, R260: a host access completes exactly when it is a word access to the offset of a register that its
kind may reach, whatever the state; otherwise it ends in the access error, and no access is refused. -/
def Obligations.AccessCompletesExactlyWhenPerformed : Prop :=
  ∀ (s : State) (a : Access) (rest : List Event), s.bus = .access a :: rest →
    ((∃ t, step s = .next t) ↔
      a.size = 4 ∧ ∃ r : Reg, a.off = regOffset r ∧
        ((∃ v, a = .write a.off 4 v) → r ≠ .status ∧ r ≠ .queue ∧ r ≠ .queues ∧ ∀ i, r ≠ .reta i)) ∧
    ((∃ t, step s = .next t) ∨ ∃ f, step s = .fault f)

/-- R66: a read returns the register's value, its hardwired-zero bits reading 0, changes no register, and gives the same
value again. That the word read is appended to `returned` is the model's choice (log 3). -/
def Obligations.ReadReturnsTheRegister : Prop :=
  (∀ (s : State) (r : Reg) (rest : List Event),
    step { s with bus := .access (.read (regOffset r) 4) :: rest } =
      .next { s with bus := rest, returned := s.returned ++ [regRead s r] } ∧
    RunsTo 2 { s with bus := .access (.read (regOffset r) 4) :: .access (.read (regOffset r) 4) :: rest }
      { s with bus := rest, returned := s.returned ++ [regRead s r, regRead s r] }) ∧
  (∀ s : State, (regRead s .status).extractLsb' 9 7 = 0 ∧ (regRead s .status).extractLsb' 26 6 = 0 ∧
    (regRead s .queue).extractLsb' 7 25 = 0 ∧ (∀ i, (regRead s (.reta i)).extractLsb' 7 25 = 0) ∧
    (regRead s .srcPort).extractLsb' 16 16 = 0 ∧ (regRead s .dstPort).extractLsb' 16 16 = 0) ∧
  ∀ s : State, regRead s .cmd = s.cmd ∧ regRead s .len = s.len ∧ regRead s .hash = s.hash ∧ regRead s .cpus = s.cpus ∧
    regRead s .queues = s.queues ∧ regRead s .srcIp = s.srcIp ∧ regRead s .dstIp = s.dstIp ∧
    (∀ w, regRead s (.key w) = s.key[w]) ∧ ∀ w, regRead s (.data w) = s.data[w]

/-- R24, R30, R34, R37: the fields of `STATUS`, and the bits that the narrow registers store. -/
def Obligations.FieldsReadWhereTheyStand : Prop :=
  ∀ s : State,
    (regRead s .status).extractLsb' 0 8 = s.err ∧
    (regRead s .status).getLsbD 8 = s.retaValid ∧
    (regRead s .status).extractLsb' 16 10 = s.keyLoaded ∧
    (regRead s .queue).toNat = s.queue.toNat ∧
    (∀ i : Fin 128, (regRead s (.reta i)).toNat = s.reta[i].toNat) ∧
    (regRead s .srcPort).toNat = s.srcPort.toNat ∧ (regRead s .dstPort).toNat = s.dstPort.toNat

/-- R20, R215: two states whose registers read the same through the window differ in nothing that the block holds. -/
def Obligations.RegistersAreTheWholeState : Prop :=
  ∀ s t : State, (∀ r : Reg, regRead t r = regRead s r) → t = { s with bus := t.bus, returned := t.returned }

/-- R67: what a word write at each read-write offset does, and that a second write of the same word to a register other
than `CMD` leaves the same state. -/
def Obligations.WriteStoresTheWord : Prop :=
  (∀ (s : State) (v : Word) (rest : List Event),
    let write (r : Reg) := step { s with bus := .access (.write (regOffset r) 4 v) :: rest }
    write .cmd = exec (decode v) { s with bus := rest, cmd := v } ∧
    (∀ w : Fin 10, write (.key w) =
      .next { s with bus := rest, key := s.key.set w v, keyLoaded := s.keyLoaded ||| BitVec.twoPow 10 w }) ∧
    write .srcPort = .next { s with bus := rest, srcPort := v.extractLsb' 0 16 } ∧
    write .dstPort = .next { s with bus := rest, dstPort := v.extractLsb' 0 16 } ∧
    write .len = .next { s with bus := rest, len := v } ∧
    write .hash = .next { s with bus := rest, hash := v } ∧
    write .cpus = .next { s with bus := rest, cpus := v } ∧
    write .srcIp = .next { s with bus := rest, srcIp := v } ∧
    write .dstIp = .next { s with bus := rest, dstIp := v } ∧
    ∀ w : Fin 10, write (.data w) = .next { s with bus := rest, data := s.data.set w v }) ∧
  ∀ (s : State) (r : Reg) (v : Word), r ≠ .cmd → readOnly r = false →
    ∃ t, regWrite r v s = .next t ∧ regWrite r v t = .next t

/-- R23: `CMD` holds the last word written to it, legal or not, and no command writes it. -/
def Obligations.CmdHoldsTheLastWordWritten : Prop :=
  ∀ s t : State, step s = .next t →
    (s.nextEvent Event.isReset = true → t.cmd = 0) ∧
    (∀ v : Word, s.nextEvent (Event.isWrite .cmd v) = true → t.cmd = v) ∧
    (s.nextEvent Event.isReset = false → s.nextEvent (Event.writes .cmd) = false → t.cmd = s.cmd)

/-- R37, R66, R67, R71: after a write to a register other than `CMD`, that register reads the written word (its low 16 bits
for a port), and every other register but `STATUS` reads as before; `STATUS` too, unless a key word was written. -/
def Obligations.ReadSeesTheLatestWrite : Prop :=
  ∀ (s t : State) (r : Reg) (v : Word), r ≠ .cmd → regWrite r v s = .next t →
    regRead t r = (if r = .srcPort ∨ r = .dstPort then v &&& 0x0000FFFF else v) ∧
    (∀ r' : Reg, r' ≠ r → r' ≠ .status → regRead t r' = regRead s r') ∧
    ((∀ w, r ≠ .key w) → regRead t .status = regRead s .status)

/-- R37: a port keeps the low 16 bits of the written word and reads them zero-extended, ENCODE_TUPLE encodes from them, no
command writes them, and they reset to 0. -/
def Obligations.PortWriteIsMasked : Prop :=
  (∀ (s : State) (v : Word),
    (∃ t, regWrite .srcPort v s = .next t ∧ (regRead t .srcPort).toNat = v.toNat % 65536) ∧
    ∃ t, regWrite .dstPort v s = .next t ∧ (regRead t .dstPort).toNat = v.toNat % 65536) ∧
  (∀ s : State, ∃ t, exec .encodeTuple s = .next t ∧ t.data[2] = s.srcPort ++ s.dstPort) ∧
  (∀ (i : Instr) (s t : State), exec i s = .next t → t.srcPort = s.srcPort ∧ t.dstPort = s.dstPort) ∧
  State.reset.srcPort = 0 ∧ State.reset.dstPort = 0

/-- R10, R69: byte `i` of the key, counted from the most significant, is `KeyByte(i)`, and word `w` is `KEYw`. -/
def Obligations.KeyValueIsBigEndian : Prop :=
  ∀ s : State,
    (∀ i : Nat, i < 40 → (keyValue s).extractLsb' (312 - 8 * i) 8 = keyByte s i) ∧
    (∀ w : Fin 10, keyWord (keyValue s) w = s.key[w]) ∧
    ∀ (w : Fin 10) (b : Nat), b < 4 → dataByte s (4 * w + b) = (s.data[w]).extractLsb' (24 - 8 * b) 8

-- ## Reset

/-- R40: every register reads 0 after reset, `STATUS` among them. -/
def Obligations.ResetLeavesEveryRegisterZero : Prop :=
  (∀ r : Reg, regRead State.reset r = 0) ∧
  State.reset.err = 0 ∧ State.reset.retaValid = false ∧ State.reset.keyLoaded = 0 ∧
  regRead State.reset .status = 0x00000000

/-- R240, R241: a reset event sets every register to its reset value and performs no access, the one it interrupts among
them. Accesses still waiting, and words already read, are the hosts' (the model's choice, log 7). -/
def Obligations.ResetEventClearsTheRegisters : Prop :=
  ∀ (s : State) (interrupted : Option Access) (rest : List Event), s.bus = .reset interrupted :: rest →
    step s = .next { State.reset with bus := rest, returned := s.returned }

-- ## Control and errors

/-- R180: NOP clears `ERR` and changes nothing else, a word with `OP = 0x00` and a reserved bit set is no NOP, and reset runs
none although `CMD` reads 0 after it. The last clause rests on the model's empty bus at reset (log 1, a choice) and on its
idle step (log 2, an inference from R216 and R241). -/
def Obligations.NopReportsSuccessOnly : Prop :=
  decode 0x00000000#32 = .nop ∧
  (∀ s : State, exec .nop s = .next { s with err := 0 }) ∧
  (∀ (s : State) (v : Word) (rest : List Event), v.extractLsb' 0 8 = 0 → v.extractLsb' 8 24 ≠ 0 →
    step { s with bus := .access (.write 0x000 4 v) :: rest } = .next { s with bus := rest, cmd := v, err := 5 }) ∧
  State.reset.cmd = 0x00000000 ∧ step State.reset = .next State.reset

/-- R204, with the codes of R201: the outcome code that a `CMD` write of `v` leaves, in the order of the checks. -/
def Obligations.OutcomeCodeOfEveryCommand : Prop :=
  ∀ (s : State) (v : Word) (rest : List Event), s.bus = .access (.write 0x000 4 v) :: rest →
    ∃ t, step s = .next t ∧ t.err =
      if v.extractLsb' 8 24 ≠ 0 ∨ 6 ≤ (v.extractLsb' 0 8).toNat then 5
      else if v = 0x00000001 ∧ s.keyLoaded ≠ 0b1111111111 then 3
      else if v = 0x00000001 ∧ 40 < s.len.toNat then 1
      else if v = 0x00000004 ∧ s.cpus = 0 then 2
      else if v = 0x00000005 ∧ s.retaValid = false then 4
      else 0

/-- R203: a failed command writes `ERR` alone; `CMD` holds its word. -/
def Obligations.FailedCommandChangesOnlyErr : Prop :=
  ∀ (s t : State) (v : Word) (rest : List Event), s.bus = .access (.write 0x000 4 v) :: rest →
    step s = .next t → t.err ≠ 0 → t = { s with bus := rest, cmd := v, err := t.err }

/-- R206: a command runs the same whatever an earlier command left in `ERR`. -/
def Obligations.NoCommandReadsErr : Prop :=
  ∀ (i : Instr) (s : State) (e : BitVec 8), exec i { s with err := e } = exec i s

/-- R22, R93: a command reads neither `CMD` nor anything outside the registers. -/
def Obligations.NoCommandReadsCmdOrTheBus : Prop :=
  ∀ (i : Instr) (s t : State) (c : Word) (es : List Event) (l : List Word), exec i s = .next t →
    exec i { s with cmd := c, bus := es, returned := l } = .next { t with cmd := c, bus := es, returned := l }

/-- R120, R163 say it of HASH and QUEUE_OF, and it follows for the others from R92, R141, R142, R160 and R180: issuing a
command again, its operands unchanged, changes nothing more. -/
def Obligations.CommandsAreIdempotent : Prop :=
  ∀ (i : Instr) (s t : State), exec i s = .next t → exec i t = .next t

-- ## HASH

/-- R120: the two errors in their order, the hash, the empty input, a second HASH, and the worked example. -/
def Obligations.HashCommand : Prop :=
  decode 0x00000001#32 = .hash ∧
  (∀ s : State,
    (s.keyLoaded ≠ 0b1111111111 → exec .hash s = .next { s with err := 3 }) ∧
    (s.keyLoaded = 0b1111111111 → 40 < s.len.toNat → exec .hash s = .next { s with err := 1 }) ∧
    (s.keyLoaded = 0b1111111111 → s.len.toNat ≤ 40 → exec .hash s =
      .next { s with hash := toeplitz (keyValue s) ((List.range s.len.toNat).map (dataByte s)), err := 0 }) ∧
    (s.keyLoaded = 0b1111111111 → s.len = 0 → exec .hash s = .next { s with hash := 0, err := 0 }) ∧
    ∀ t, exec .hash s = .next t → exec .hash t = .next t) ∧
  toeplitz 0x6d5a56da255b0ec24167253d43a38fb0d0ca2bcbae7b30b477cb2da38030f20c6a42b73bbeac01fa
    [0x42, 0x09, 0x95, 0xbb, 0xa1, 0x8e, 0x64, 0x50] = 0x323e8fc2

/-- R122: the hash is the XOR of the windows `W_t` of the one bits, `W_t` taken from the unbounded shift of the key, and bit
`p` of `W_t` is key bit `288 - t + p`, 0 below key bit 0. R121 and R122 speak of at most 40 bytes; that the same holds of
`toeplitz` on longer lists is the model's choice (log 18). -/
def Obligations.ToeplitzIsTheXorOfWindows : Prop :=
  ∀ (k : BitVec 320) (d : List Byte),
    toeplitz k d =
      (List.range (8 * d.length)).foldl
        (fun acc t =>
          if (d.getD (t / 8) 0).getLsbD (7 - t % 8) then acc ^^^ BitVec.ofNat 32 ((k.toNat <<< t) >>> 288) else acc) 0 ∧
    ∀ t p : Nat, p < 32 → (BitVec.ofNat 32 ((k.toNat <<< t) >>> 288)).getLsbD p =
      if t ≤ 288 + p then k.getLsbD (288 + p - t) else false

/-- R123: the windows that reach below key bit 0 are filled with zeros, every input of up to 40 bytes is hashed, and the
example of the rule. -/
def Obligations.WindowsPastTheKeyAreZeroFilled : Prop :=
  (∀ (k : BitVec 320) (t : Nat), 288 ≤ t → t < 320 →
    toeplitz k ((List.range 40).map fun i => if i = t / 8 then BitVec.twoPow 8 (7 - t % 8) else 0) =
      (k.extractLsb' 0 32) <<< (t - 288)) ∧
  (∀ s : State, s.keyLoaded = 0b1111111111 → s.len.toNat ≤ 40 → exec .hash s =
    .next { s with hash := toeplitz (keyValue s) ((List.range s.len.toNat).map (dataByte s)), err := 0 }) ∧
  toeplitz 1 (List.replicate 40 0xFF) = 0xFFFFFFFF

/-- R124: the five laws. R121 defines the hash of at most 40 bytes, and laws 2 and 3 are bounded so; that they hold of
`toeplitz` on longer lists is the model's choice (log 18). -/
def Obligations.ToeplitzLaws : Prop :=
  (∀ (k : BitVec 320) (a b : List Byte), a.length = b.length →
    toeplitz k (List.zipWith (· ^^^ ·) a b) = toeplitz k a ^^^ toeplitz k b) ∧
  (∀ (k : BitVec 320) (n : Nat), toeplitz k (List.replicate n 0) = 0) ∧
  (∀ (k : BitVec 320) (d : List Byte) (m : Nat), toeplitz k (d ++ List.replicate m 0) = toeplitz k d) ∧
  (∀ (k₁ k₂ : BitVec 320) (d : List Byte), toeplitz (k₁ ^^^ k₂) d = toeplitz k₁ d ^^^ toeplitz k₂ d) ∧
  ∀ (s : State) (n : Nat), toeplitz (keyValue s) (0x80 :: List.replicate n 0) = (keyValue s).extractLsb' 288 32 ∧
    (keyValue s).extractLsb' 288 32 = s.key[0]

/-- R125: HASH leaves the key and its loaded bits as they are, and states that agree on the key, `LEN` and the first `LEN`
data bytes get equal hashes. -/
def Obligations.HashIsPureAndDeterministic : Prop :=
  (∀ s t : State, exec .hash s = .next t → t.key = s.key ∧ t.keyLoaded = s.keyLoaded ∧ t.data = s.data ∧ t.len = s.len) ∧
  ∀ s s' : State, s.keyLoaded = 0b1111111111 → s'.keyLoaded = 0b1111111111 →
    keyValue s' = keyValue s → s'.len = s.len → s.len.toNat ≤ 40 →
    (∀ i < s.len.toNat, dataByte s' i = dataByte s i) →
    ∃ t t', exec .hash s = .next t ∧ exec .hash s' = .next t' ∧ t'.hash = t.hash

/-- R256: with the key loaded, rewriting one word leaves it loaded, and the next HASH runs on the mixed key. -/
def Obligations.HashRunsOnAPartlyRewrittenKey : Prop :=
  ∀ (s : State) (w : Fin 10) (v : Word), s.keyLoaded = 0b1111111111 → s.len.toNat ≤ 40 →
    ∃ t u, regWrite (.key w) v s = .next t ∧ t.keyLoaded = 0b1111111111 ∧ keyWord (keyValue t) w = v ∧
      (∀ w' : Fin 10, w' ≠ w → keyWord (keyValue t) w' = keyWord (keyValue s) w') ∧
      exec .hash t = .next u ∧ u.err = 0 ∧ u.hash = toeplitz (keyValue t) (hashInput s s.len.toNat)

-- ## The address codec

/-- R141: ENCODE_PAIR, and that HASH with `LEN = 8` ignores `DATA2` to `DATA9`: with other words there it answers the same,
those words apart. -/
def Obligations.EncodePairCommand : Prop :=
  decode 0x00000002#32 = .encodePair ∧
  (∀ s : State, exec .encodePair s =
    .next { s with data := (s.data.set 0 s.srcIp).set 1 s.dstIp, len := 8, err := 0 }) ∧
  ∀ (s : State) (d : Vector Word 10), s.len = 8 → d[0] = s.data[0] → d[1] = s.data[1] →
    ∃ t, exec .hash s = .next t ∧ exec .hash { s with data := d } = .next { t with data := d }

/-- R142: ENCODE_TUPLE, the bytes that the ports become, and the corner case of a port written with bits above 15. -/
def Obligations.EncodeTupleCommand : Prop :=
  decode 0x00000003#32 = .encodeTuple ∧
  (∀ s : State, ∃ t, exec .encodeTuple s = .next t ∧
    t = { s with data := ((s.data.set 0 s.srcIp).set 1 s.dstIp).set 2 (s.srcPort ++ s.dstPort), len := 12, err := 0 } ∧
    dataByte t 8 = s.srcPort.extractLsb' 8 8 ∧ dataByte t 9 = s.srcPort.extractLsb' 0 8 ∧
    dataByte t 10 = s.dstPort.extractLsb' 8 8 ∧ dataByte t 11 = s.dstPort.extractLsb' 0 8) ∧
  ∀ (s : State) (v v' : Word), v.toNat % 65536 = v'.toNat % 65536 →
    regWrite .srcPort v s = regWrite .srcPort v' s ∧ regWrite .dstPort v s = regWrite .dstPort v' s

/-- R143: the bytes the two commands leave are the address pair and the 4-tuple, key or no key, so with the key loaded an
encode and a HASH compute the hash of them. -/
def Obligations.EncodeThenHashHashesTheFlow : Prop :=
  ∀ s : State,
    (∃ t, exec .encodePair s = .next t ∧ hashInput t t.len.toNat = octets s.srcIp ++ octets s.dstIp ∧
      (s.keyLoaded = 0b1111111111 → ∃ u, exec .hash t = .next u ∧ u.err = 0 ∧
        u.hash = toeplitz (keyValue s) (octets s.srcIp ++ octets s.dstIp))) ∧
    ∃ t, exec .encodeTuple s = .next t ∧
      hashInput t t.len.toNat = octets s.srcIp ++ octets s.dstIp ++ portBytes s.srcPort ++ portBytes s.dstPort ∧
      (s.keyLoaded = 0b1111111111 → ∃ u, exec .hash t = .next u ∧ u.err = 0 ∧
        u.hash = toeplitz (keyValue s) (octets s.srcIp ++ octets s.dstIp ++ portBytes s.srcPort ++ portBytes s.dstPort))

-- ## The redirection table

/-- R160: BUILD_RETA, its error and its table. -/
def Obligations.BuildRetaCommand : Prop :=
  decode 0x00000004#32 = .buildReta ∧ ∀ s : State,
    (s.cpus = 0 → exec .buildReta s = .next { s with err := 2 }) ∧
    (s.cpus ≠ 0 → ∃ t, exec .buildReta s = .next t ∧
      (∀ i : Fin 128, (t.reta[i]).toNat = (4 * (i / 4) + 3 - i % 4) % max 16 s.cpus.toNat) ∧
      t.queues.toNat = max 16 s.cpus.toNat ∧
      t = { s with reta := t.reta, queues := t.queues, retaValid := true, err := 0 })

/-- R161: the closed form of an entry, its bounds, and the block reversal as a permutation of 0..127. -/
def Obligations.RetaEntryReversesBlocksOfFour : Prop :=
  (∀ i q : Nat, i < 128 → 16 ≤ q →
    retaEntry i q = (4 * (i / 4) + 3 - i % 4) % q ∧ retaEntry i q ≤ min q 128 - 1 ∧ retaEntry i q < q) ∧
  (∀ m r : Nat, m < 32 → r < 4 → reversedIndex (4 * m + r) = 4 * m + (3 - r)) ∧
  (∀ k : Nat, k < 128 → ∃ i : Nat, i < 128 ∧ reversedIndex i = k ∧ ∀ j < 128, reversedIndex j = k → j = i) ∧
  ∀ (i : Fin 128) (q : Nat), 16 ≤ q → ((retaTable q)[i]).toNat = retaEntry i q

/-- R162: the table that BUILD_RETA leaves is the one of the source's three steps, with `q = max(16, CPUS)`. -/
def Obligations.BuildRetaRefinesTheThreeSteps : Prop :=
  (∀ s : State, s.cpus ≠ 0 → ∃ t, exec .buildReta s = .next t ∧
    t.reta.toList.map BitVec.toNat = threeStepTable (max 16 s.cpus.toNat)) ∧
  ∀ (q m r : Nat), 16 ≤ q → m < 32 → r < 4 →
    (threeStepTable q)[4 * m + r]? = some ((4 * m + (3 - r)) % q) ∧ retaEntry (4 * m + r) q = (4 * m + (3 - r)) % q

/-- R163: QUEUE_OF, its error and the slot that the low 7 bits of the hash select. -/
def Obligations.QueueOfCommand : Prop :=
  decode 0x00000005#32 = .queueOf ∧ ∀ s : State,
    (s.retaValid = false → exec .queueOf s = .next { s with err := 4 }) ∧
    (s.retaValid = true → ∃ i : Fin 128, i.val = (s.hash &&& Config.retaIndexMask).toNat ∧
      exec .queueOf s = .next { s with queue := s.reta[i], err := 0 })

/-- R164: the four laws; law 3 on states that satisfy the invariant. -/
def Obligations.RetaLaws : Prop :=
  (∀ (s s' t t' : State), s'.reta = s.reta → s.retaValid = true → s'.retaValid = true →
    s'.hash.extractLsb' 0 7 = s.hash.extractLsb' 0 7 →
    exec .queueOf s = .next t → exec .queueOf s' = .next t' → t'.queue = t.queue) ∧
  (∀ c : Word, 1 ≤ c.toNat → c.toNat ≤ 16 →
    (∀ k : Nat, k < 32 → ((retaTable (queueCount c)).toList.map BitVec.toNat).extract (4 * k) (4 * k + 4) =
      [(4 * k + 3) % 16, (4 * k + 2) % 16, (4 * k + 1) % 16, (4 * k) % 16]) ∧
    ∀ v : Nat, v < 16 → ((retaTable (queueCount c)).toList.map BitVec.toNat).count v = 8) ∧
  (∀ s t : State, s.Inv → exec .queueOf s = .next t → t.err = 0 → t.queue.toNat < min t.queues.toNat 128) ∧
  (∀ c c' : Word, max 16 c.toNat = max 16 c'.toNat → retaTable (queueCount c) = retaTable (queueCount c')) ∧
  ∀ c c' : Word, 128 ≤ c.toNat → 128 ≤ c'.toNat → retaTable (queueCount c) = retaTable (queueCount c')

-- ## Frames

/-- R93: a command leaves every register but those it writes as it was, `RETA_VALID` changes under BUILD_RETA alone, and
`KEY_LOADED` under no command. -/
def Obligations.CommandsLeaveOtherRegisters : Prop :=
  ∀ (i : Instr) (s t : State), exec i s = .next t →
    (∀ r : Reg, mayWrite i r = false → regRead t r = regRead s r) ∧
    t.keyLoaded = s.keyLoaded ∧ (i ≠ .buildReta → t.retaValid = s.retaValid) ∧
    (s.retaValid = true → t.retaValid = true) ∧ t.bus = s.bus ∧ t.returned = s.returned

/-- R93: two states with equal operands of a command get the same outcome code from it and, when it succeeds, the same values
in every register that it writes. -/
def Obligations.CommandsReadOnlyTheirOperands : Prop :=
  ∀ (i : Instr) (s s' : State), SameOperands i s s' →
    ∃ t t', exec i s = .next t ∧ exec i s' = .next t' ∧ t'.err = t.err ∧
      (t.err = 0 → ∀ r : Reg, mayWrite i r = true → r ≠ .status → regRead t' r = regRead t r)

/-- R23, R28 to R37: outside a reset, the only events that change each register. -/
def Obligations.RegistersChangeOnlyByTheirWriters : Prop :=
  ∀ s t : State, step s = .next t → s.nextEvent Event.isReset = false →
    let pair := s.nextEvent (Event.isWrite .cmd 2)
    let tuple := s.nextEvent (Event.isWrite .cmd 3)
    (t.cmd ≠ s.cmd → s.nextEvent (Event.writes .cmd) = true) ∧
    (t.len ≠ s.len → s.nextEvent (Event.writes .len) = true ∨ pair = true ∨ tuple = true) ∧
    (t.hash ≠ s.hash → s.nextEvent (Event.writes .hash) = true ∨
      s.nextEvent (Event.isWrite .cmd 1) = true ∧ s.keyLoaded = 0b1111111111 ∧ s.len.toNat ≤ 40) ∧
    (t.queue ≠ s.queue → s.nextEvent (Event.isWrite .cmd 5) = true ∧ s.retaValid = true) ∧
    (t.queues ≠ s.queues ∨ t.reta ≠ s.reta → s.nextEvent (Event.isWrite .cmd 4) = true ∧ s.cpus ≠ 0) ∧
    (t.cpus ≠ s.cpus → s.nextEvent (Event.writes .cpus) = true) ∧
    (t.srcIp ≠ s.srcIp → s.nextEvent (Event.writes .srcIp) = true) ∧
    (t.dstIp ≠ s.dstIp → s.nextEvent (Event.writes .dstIp) = true) ∧
    (t.srcPort ≠ s.srcPort → s.nextEvent (Event.writes .srcPort) = true) ∧
    (t.dstPort ≠ s.dstPort → s.nextEvent (Event.writes .dstPort) = true) ∧
    (∀ w : Fin 10, t.key[w] ≠ s.key[w] → s.nextEvent (Event.writes (.key w)) = true) ∧
    ∀ w : Fin 10, t.data[w] ≠ s.data[w] → s.nextEvent (Event.writes (.data w)) = true ∨
      w.val < 2 ∧ pair = true ∨ w.val < 3 ∧ tuple = true

/-- R25, R202: only a `CMD` write and reset change `ERR`. -/
def Obligations.ErrChangesOnlyByCommands : Prop :=
  ∀ s t : State, step s = .next t →
    (s.nextEvent Event.isReset = true → t.err = 0) ∧
    (s.nextEvent Event.isReset = false → s.nextEvent (Event.writes .cmd) = false → t.err = s.err)

/-- R26: `RETA_VALID` after a step. Reset clears it, a successful BUILD_RETA sets it, nothing else writes it, and QUEUE_OF
reads it. -/
def Obligations.RetaValidAfterAStep : Prop :=
  (∀ s t : State, step s = .next t → t.retaValid =
    if s.nextEvent Event.isReset then false
    else if s.nextEvent (Event.isWrite .cmd 4) && s.cpus != 0 then true
    else s.retaValid) ∧
  ∀ s : State, (∃ t, exec .queueOf s = .next t ∧ t.err = 0) ↔ s.retaValid = true

/-- R27: `KEY_LOADED[w]` after a step, and HASH runs only when all ten bits are 1. -/
def Obligations.KeyLoadedAfterAStep : Prop :=
  (∀ s t : State, step s = .next t → ∀ w : Fin 10, t.keyLoaded.getLsbD w =
    if s.nextEvent Event.isReset then false
    else if s.nextEvent (Event.writes (.key w)) then true
    else s.keyLoaded.getLsbD w) ∧
  ∀ (s : State) (w : Fin 10), s.keyLoaded.getLsbD w = false → exec .hash s = .next { s with err := 3 }

-- ## Invariants and runs

/-- R24, R33, R34, R40: the reset state satisfies the invariant. -/
def Obligations.ResetSatisfiesTheInvariant : Prop := State.reset.Inv

/-- R24, R26, R27, R32 to R34, R201: every step keeps the invariant, from every state that satisfies it. -/
def Obligations.StepKeepsTheInvariant : Prop :=
  ∀ s t : State, s.Inv → step s = .next t → t.Inv

/-- R200, R260: a run over events that the block performs never stops, and takes one event a step; with none left it idles
(log 2, an inference from R216 and R241). -/
def Obligations.PerformedEventsNeverStopARun : Prop :=
  ∀ (s : State) (k : Nat), (∀ e ∈ s.bus, e.performs = true) → ∃ t, RunsTo k s t ∧ t.bus = s.bus.drop k

/-- R65: a run over the whole bus ends well only if the block performs every event on it. -/
def Obligations.RunWithAnAccessErrorNeverEndsWell : Prop :=
  ∀ (s t : State), RunsTo s.bus.length s t → ∀ e ∈ s.bus, e.performs = true

/-- R66, R71: a host that only reads leaves the other host's run as it is, in every bus order of the two. -/
def Obligations.ReadingHostDisturbsNobody : Prop :=
  ∀ (s t : State) (xs ys zs : List Event), Interleaves xs ys zs → (∀ e ∈ ys, e.isPerformedRead = true) →
    RunsTo xs.length { s with bus := xs } t →
    ∃ u, RunsTo zs.length { s with bus := zs } u ∧ SameRegisters t u

/-- R27: after a run, `KEY_LOADED[w]` is 1 exactly when a `KEYw` write since the last reset set it, or it was 1 and no reset
came. -/
def Obligations.KeyLoadedOverARun : Prop :=
  ∀ (s t : State) (k : Nat), RunsTo k s t →
    ∀ w : Fin 10, t.keyLoaded.getLsbD w = keyBitAfter w (s.keyLoaded.getLsbD w) (s.bus.take k)

/-- R242: once all ten key words have been written, in any order and among any other performed accesses, HASH no longer
raises KeyNotLoaded. -/
def Obligations.KeyWritesInAnyOrderEnableHash : Prop :=
  ∀ (s : State) (as : List Access), (∀ a ∈ as, a.performs = true) →
    (∀ w : Fin 10, ∃ v, Access.write (regOffset (.key w)) 4 v ∈ as) →
    ∃ t, RunsTo as.length { s with bus := as.map .access } t ∧ t.keyLoaded = 0b1111111111 ∧
      (t.len.toNat ≤ 40 → ∃ u, exec .hash t = .next u ∧ u.err = 0)

-- ## The host assembly

/-- R69, R102: LDKEY loads the key it names, and every other register but `STATUS` keeps its value. -/
def Obligations.LdKeyLoadsTheKey : Prop :=
  ∀ (s : State) (k : BitVec 320) (as : List Access), expandLine (.ldKey k) = some as →
    ∃ t, RunsTo as.length { s with bus := as.map .access } t ∧ keyValue t = k ∧ t.keyLoaded = 0b1111111111 ∧
      t.err = s.err ∧ t.retaValid = s.retaValid ∧
      ∀ r : Reg, r ≠ .status → (∀ w, r ≠ .key w) → regRead t r = regRead s r

/-- R68, R102: LDDATA leaves its bytes as the hash input. That a string of more than 40 bytes is no line and has no
expansion is the model's choice (log 16). -/
def Obligations.LdDataLoadsTheBytes : Prop :=
  ∀ (s : State) (bytes : List Byte),
    (bytes.length ≤ 40 → ∃ as t, expandLine (.ldData bytes) = some as ∧
      RunsTo as.length { s with bus := as.map .access } t ∧
      t.len.toNat = bytes.length ∧ hashInput t t.len.toNat = bytes) ∧
    (40 < bytes.length → expandLine (.ldData bytes) = none)

/-- R102, R140: SETIP puts the octets in the order of the dotted quads, and SETPORT the ports' low 16 bits. -/
def Obligations.SetIpAndSetPortStoreTheFlow : Prop :=
  ∀ (s : State) (a b c d e f g h : Byte) (sp dp : Word) (as ps : List Access),
    expandLine (.setIp a b c d e f g h) = some as → expandLine (.setPort sp dp) = some ps →
    ∃ t, RunsTo 4 { s with bus := (as ++ ps).map .access } t ∧
      octets t.srcIp = [a, b, c, d] ∧ octets t.dstIp = [e, f, g, h] ∧
      portBytes t.srcPort = [sp.extractLsb' 8 8, sp.extractLsb' 0 8] ∧
      portBytes t.dstPort = [dp.extractLsb' 8 8, dp.extractLsb' 0 8]

/-- R102, R143, R163: with a key and a table, LOOKUP returns the table's entry for the hash of the 4-tuple. That the word
its last read returns is appended to `returned` is the model's choice (log 3). -/
def Obligations.LookupSteersTheFlow : Prop :=
  ∀ (s : State) (as : List Access), expandLine .lookup = some as →
    s.keyLoaded = 0b1111111111 → s.retaValid = true →
    ∃ t, RunsTo 4 { s with bus := as.map .access } t ∧ t.err = 0 ∧
      t.hash = toeplitz (keyValue s)
        (octets s.srcIp ++ octets s.dstIp ++ portBytes s.srcPort ++ portBytes s.dstPort) ∧
      (∃ i : Fin 128, i.val = t.hash.toNat % 128 ∧ t.queue = s.reta[i]) ∧
      t.returned = s.returned ++ [t.queue.setWidth 32]
end

