-- ==== Sys2Proof/Laws/State.lean ====
section
/-! SUPPORT. What each named update of State leaves in each field, one lemma per field per update, so that no later
proof unfolds a record update. -/

namespace Sys2Proof.Machine.State

@[simp] theorem setCmd_cmd (s : State) (v : Word) : (s.setCmd v).cmd = v := rfl
@[simp] theorem setCmd_err (s : State) (v : Word) : (s.setCmd v).err = s.err := rfl
@[simp] theorem setCmd_retaValid (s : State) (v : Word) : (s.setCmd v).retaValid = s.retaValid := rfl
@[simp] theorem setCmd_keyLoaded (s : State) (v : Word) : (s.setCmd v).keyLoaded = s.keyLoaded := rfl
@[simp] theorem setCmd_len (s : State) (v : Word) : (s.setCmd v).len = s.len := rfl
@[simp] theorem setCmd_hash (s : State) (v : Word) : (s.setCmd v).hash = s.hash := rfl
@[simp] theorem setCmd_queue (s : State) (v : Word) : (s.setCmd v).queue = s.queue := rfl
@[simp] theorem setCmd_cpus (s : State) (v : Word) : (s.setCmd v).cpus = s.cpus := rfl
@[simp] theorem setCmd_queues (s : State) (v : Word) : (s.setCmd v).queues = s.queues := rfl
@[simp] theorem setCmd_srcIp (s : State) (v : Word) : (s.setCmd v).srcIp = s.srcIp := rfl
@[simp] theorem setCmd_dstIp (s : State) (v : Word) : (s.setCmd v).dstIp = s.dstIp := rfl
@[simp] theorem setCmd_srcPort (s : State) (v : Word) : (s.setCmd v).srcPort = s.srcPort := rfl
@[simp] theorem setCmd_dstPort (s : State) (v : Word) : (s.setCmd v).dstPort = s.dstPort := rfl
@[simp] theorem setCmd_key (s : State) (v : Word) : (s.setCmd v).key = s.key := rfl
@[simp] theorem setCmd_data (s : State) (v : Word) : (s.setCmd v).data = s.data := rfl
@[simp] theorem setCmd_reta (s : State) (v : Word) : (s.setCmd v).reta = s.reta := rfl
@[simp] theorem setCmd_bus (s : State) (v : Word) : (s.setCmd v).bus = s.bus := rfl
@[simp] theorem setCmd_returned (s : State) (v : Word) : (s.setCmd v).returned = s.returned := rfl

@[simp] theorem setErr_cmd (s : State) (c : BitVec 8) : (s.setErr c).cmd = s.cmd := rfl
@[simp] theorem setErr_err (s : State) (c : BitVec 8) : (s.setErr c).err = c := rfl
@[simp] theorem setErr_retaValid (s : State) (c : BitVec 8) : (s.setErr c).retaValid = s.retaValid := rfl
@[simp] theorem setErr_keyLoaded (s : State) (c : BitVec 8) : (s.setErr c).keyLoaded = s.keyLoaded := rfl
@[simp] theorem setErr_len (s : State) (c : BitVec 8) : (s.setErr c).len = s.len := rfl
@[simp] theorem setErr_hash (s : State) (c : BitVec 8) : (s.setErr c).hash = s.hash := rfl
@[simp] theorem setErr_queue (s : State) (c : BitVec 8) : (s.setErr c).queue = s.queue := rfl
@[simp] theorem setErr_cpus (s : State) (c : BitVec 8) : (s.setErr c).cpus = s.cpus := rfl
@[simp] theorem setErr_queues (s : State) (c : BitVec 8) : (s.setErr c).queues = s.queues := rfl
@[simp] theorem setErr_srcIp (s : State) (c : BitVec 8) : (s.setErr c).srcIp = s.srcIp := rfl
@[simp] theorem setErr_dstIp (s : State) (c : BitVec 8) : (s.setErr c).dstIp = s.dstIp := rfl
@[simp] theorem setErr_srcPort (s : State) (c : BitVec 8) : (s.setErr c).srcPort = s.srcPort := rfl
@[simp] theorem setErr_dstPort (s : State) (c : BitVec 8) : (s.setErr c).dstPort = s.dstPort := rfl
@[simp] theorem setErr_key (s : State) (c : BitVec 8) : (s.setErr c).key = s.key := rfl
@[simp] theorem setErr_data (s : State) (c : BitVec 8) : (s.setErr c).data = s.data := rfl
@[simp] theorem setErr_reta (s : State) (c : BitVec 8) : (s.setErr c).reta = s.reta := rfl
@[simp] theorem setErr_bus (s : State) (c : BitVec 8) : (s.setErr c).bus = s.bus := rfl
@[simp] theorem setErr_returned (s : State) (c : BitVec 8) : (s.setErr c).returned = s.returned := rfl

@[simp] theorem setLen_cmd (s : State) (v : Word) : (s.setLen v).cmd = s.cmd := rfl
@[simp] theorem setLen_err (s : State) (v : Word) : (s.setLen v).err = s.err := rfl
@[simp] theorem setLen_retaValid (s : State) (v : Word) : (s.setLen v).retaValid = s.retaValid := rfl
@[simp] theorem setLen_keyLoaded (s : State) (v : Word) : (s.setLen v).keyLoaded = s.keyLoaded := rfl
@[simp] theorem setLen_len (s : State) (v : Word) : (s.setLen v).len = v := rfl
@[simp] theorem setLen_hash (s : State) (v : Word) : (s.setLen v).hash = s.hash := rfl
@[simp] theorem setLen_queue (s : State) (v : Word) : (s.setLen v).queue = s.queue := rfl
@[simp] theorem setLen_cpus (s : State) (v : Word) : (s.setLen v).cpus = s.cpus := rfl
@[simp] theorem setLen_queues (s : State) (v : Word) : (s.setLen v).queues = s.queues := rfl
@[simp] theorem setLen_srcIp (s : State) (v : Word) : (s.setLen v).srcIp = s.srcIp := rfl
@[simp] theorem setLen_dstIp (s : State) (v : Word) : (s.setLen v).dstIp = s.dstIp := rfl
@[simp] theorem setLen_srcPort (s : State) (v : Word) : (s.setLen v).srcPort = s.srcPort := rfl
@[simp] theorem setLen_dstPort (s : State) (v : Word) : (s.setLen v).dstPort = s.dstPort := rfl
@[simp] theorem setLen_key (s : State) (v : Word) : (s.setLen v).key = s.key := rfl
@[simp] theorem setLen_data (s : State) (v : Word) : (s.setLen v).data = s.data := rfl
@[simp] theorem setLen_reta (s : State) (v : Word) : (s.setLen v).reta = s.reta := rfl
@[simp] theorem setLen_bus (s : State) (v : Word) : (s.setLen v).bus = s.bus := rfl
@[simp] theorem setLen_returned (s : State) (v : Word) : (s.setLen v).returned = s.returned := rfl

@[simp] theorem setHash_cmd (s : State) (v : Word) : (s.setHash v).cmd = s.cmd := rfl
@[simp] theorem setHash_err (s : State) (v : Word) : (s.setHash v).err = s.err := rfl
@[simp] theorem setHash_retaValid (s : State) (v : Word) : (s.setHash v).retaValid = s.retaValid := rfl
@[simp] theorem setHash_keyLoaded (s : State) (v : Word) : (s.setHash v).keyLoaded = s.keyLoaded := rfl
@[simp] theorem setHash_len (s : State) (v : Word) : (s.setHash v).len = s.len := rfl
@[simp] theorem setHash_hash (s : State) (v : Word) : (s.setHash v).hash = v := rfl
@[simp] theorem setHash_queue (s : State) (v : Word) : (s.setHash v).queue = s.queue := rfl
@[simp] theorem setHash_cpus (s : State) (v : Word) : (s.setHash v).cpus = s.cpus := rfl
@[simp] theorem setHash_queues (s : State) (v : Word) : (s.setHash v).queues = s.queues := rfl
@[simp] theorem setHash_srcIp (s : State) (v : Word) : (s.setHash v).srcIp = s.srcIp := rfl
@[simp] theorem setHash_dstIp (s : State) (v : Word) : (s.setHash v).dstIp = s.dstIp := rfl
@[simp] theorem setHash_srcPort (s : State) (v : Word) : (s.setHash v).srcPort = s.srcPort := rfl
@[simp] theorem setHash_dstPort (s : State) (v : Word) : (s.setHash v).dstPort = s.dstPort := rfl
@[simp] theorem setHash_key (s : State) (v : Word) : (s.setHash v).key = s.key := rfl
@[simp] theorem setHash_data (s : State) (v : Word) : (s.setHash v).data = s.data := rfl
@[simp] theorem setHash_reta (s : State) (v : Word) : (s.setHash v).reta = s.reta := rfl
@[simp] theorem setHash_bus (s : State) (v : Word) : (s.setHash v).bus = s.bus := rfl
@[simp] theorem setHash_returned (s : State) (v : Word) : (s.setHash v).returned = s.returned := rfl

@[simp] theorem setQueue_cmd (s : State) (q : BitVec 7) : (s.setQueue q).cmd = s.cmd := rfl
@[simp] theorem setQueue_err (s : State) (q : BitVec 7) : (s.setQueue q).err = s.err := rfl
@[simp] theorem setQueue_retaValid (s : State) (q : BitVec 7) : (s.setQueue q).retaValid = s.retaValid := rfl
@[simp] theorem setQueue_keyLoaded (s : State) (q : BitVec 7) : (s.setQueue q).keyLoaded = s.keyLoaded := rfl
@[simp] theorem setQueue_len (s : State) (q : BitVec 7) : (s.setQueue q).len = s.len := rfl
@[simp] theorem setQueue_hash (s : State) (q : BitVec 7) : (s.setQueue q).hash = s.hash := rfl
@[simp] theorem setQueue_queue (s : State) (q : BitVec 7) : (s.setQueue q).queue = q := rfl
@[simp] theorem setQueue_cpus (s : State) (q : BitVec 7) : (s.setQueue q).cpus = s.cpus := rfl
@[simp] theorem setQueue_queues (s : State) (q : BitVec 7) : (s.setQueue q).queues = s.queues := rfl
@[simp] theorem setQueue_srcIp (s : State) (q : BitVec 7) : (s.setQueue q).srcIp = s.srcIp := rfl
@[simp] theorem setQueue_dstIp (s : State) (q : BitVec 7) : (s.setQueue q).dstIp = s.dstIp := rfl
@[simp] theorem setQueue_srcPort (s : State) (q : BitVec 7) : (s.setQueue q).srcPort = s.srcPort := rfl
@[simp] theorem setQueue_dstPort (s : State) (q : BitVec 7) : (s.setQueue q).dstPort = s.dstPort := rfl
@[simp] theorem setQueue_key (s : State) (q : BitVec 7) : (s.setQueue q).key = s.key := rfl
@[simp] theorem setQueue_data (s : State) (q : BitVec 7) : (s.setQueue q).data = s.data := rfl
@[simp] theorem setQueue_reta (s : State) (q : BitVec 7) : (s.setQueue q).reta = s.reta := rfl
@[simp] theorem setQueue_bus (s : State) (q : BitVec 7) : (s.setQueue q).bus = s.bus := rfl
@[simp] theorem setQueue_returned (s : State) (q : BitVec 7) : (s.setQueue q).returned = s.returned := rfl

@[simp] theorem setCpus_cmd (s : State) (v : Word) : (s.setCpus v).cmd = s.cmd := rfl
@[simp] theorem setCpus_err (s : State) (v : Word) : (s.setCpus v).err = s.err := rfl
@[simp] theorem setCpus_retaValid (s : State) (v : Word) : (s.setCpus v).retaValid = s.retaValid := rfl
@[simp] theorem setCpus_keyLoaded (s : State) (v : Word) : (s.setCpus v).keyLoaded = s.keyLoaded := rfl
@[simp] theorem setCpus_len (s : State) (v : Word) : (s.setCpus v).len = s.len := rfl
@[simp] theorem setCpus_hash (s : State) (v : Word) : (s.setCpus v).hash = s.hash := rfl
@[simp] theorem setCpus_queue (s : State) (v : Word) : (s.setCpus v).queue = s.queue := rfl
@[simp] theorem setCpus_cpus (s : State) (v : Word) : (s.setCpus v).cpus = v := rfl
@[simp] theorem setCpus_queues (s : State) (v : Word) : (s.setCpus v).queues = s.queues := rfl
@[simp] theorem setCpus_srcIp (s : State) (v : Word) : (s.setCpus v).srcIp = s.srcIp := rfl
@[simp] theorem setCpus_dstIp (s : State) (v : Word) : (s.setCpus v).dstIp = s.dstIp := rfl
@[simp] theorem setCpus_srcPort (s : State) (v : Word) : (s.setCpus v).srcPort = s.srcPort := rfl
@[simp] theorem setCpus_dstPort (s : State) (v : Word) : (s.setCpus v).dstPort = s.dstPort := rfl
@[simp] theorem setCpus_key (s : State) (v : Word) : (s.setCpus v).key = s.key := rfl
@[simp] theorem setCpus_data (s : State) (v : Word) : (s.setCpus v).data = s.data := rfl
@[simp] theorem setCpus_reta (s : State) (v : Word) : (s.setCpus v).reta = s.reta := rfl
@[simp] theorem setCpus_bus (s : State) (v : Word) : (s.setCpus v).bus = s.bus := rfl
@[simp] theorem setCpus_returned (s : State) (v : Word) : (s.setCpus v).returned = s.returned := rfl

@[simp] theorem setSrcIp_cmd (s : State) (v : Word) : (s.setSrcIp v).cmd = s.cmd := rfl
@[simp] theorem setSrcIp_err (s : State) (v : Word) : (s.setSrcIp v).err = s.err := rfl
@[simp] theorem setSrcIp_retaValid (s : State) (v : Word) : (s.setSrcIp v).retaValid = s.retaValid := rfl
@[simp] theorem setSrcIp_keyLoaded (s : State) (v : Word) : (s.setSrcIp v).keyLoaded = s.keyLoaded := rfl
@[simp] theorem setSrcIp_len (s : State) (v : Word) : (s.setSrcIp v).len = s.len := rfl
@[simp] theorem setSrcIp_hash (s : State) (v : Word) : (s.setSrcIp v).hash = s.hash := rfl
@[simp] theorem setSrcIp_queue (s : State) (v : Word) : (s.setSrcIp v).queue = s.queue := rfl
@[simp] theorem setSrcIp_cpus (s : State) (v : Word) : (s.setSrcIp v).cpus = s.cpus := rfl
@[simp] theorem setSrcIp_queues (s : State) (v : Word) : (s.setSrcIp v).queues = s.queues := rfl
@[simp] theorem setSrcIp_srcIp (s : State) (v : Word) : (s.setSrcIp v).srcIp = v := rfl
@[simp] theorem setSrcIp_dstIp (s : State) (v : Word) : (s.setSrcIp v).dstIp = s.dstIp := rfl
@[simp] theorem setSrcIp_srcPort (s : State) (v : Word) : (s.setSrcIp v).srcPort = s.srcPort := rfl
@[simp] theorem setSrcIp_dstPort (s : State) (v : Word) : (s.setSrcIp v).dstPort = s.dstPort := rfl
@[simp] theorem setSrcIp_key (s : State) (v : Word) : (s.setSrcIp v).key = s.key := rfl
@[simp] theorem setSrcIp_data (s : State) (v : Word) : (s.setSrcIp v).data = s.data := rfl
@[simp] theorem setSrcIp_reta (s : State) (v : Word) : (s.setSrcIp v).reta = s.reta := rfl
@[simp] theorem setSrcIp_bus (s : State) (v : Word) : (s.setSrcIp v).bus = s.bus := rfl
@[simp] theorem setSrcIp_returned (s : State) (v : Word) : (s.setSrcIp v).returned = s.returned := rfl

@[simp] theorem setDstIp_cmd (s : State) (v : Word) : (s.setDstIp v).cmd = s.cmd := rfl
@[simp] theorem setDstIp_err (s : State) (v : Word) : (s.setDstIp v).err = s.err := rfl
@[simp] theorem setDstIp_retaValid (s : State) (v : Word) : (s.setDstIp v).retaValid = s.retaValid := rfl
@[simp] theorem setDstIp_keyLoaded (s : State) (v : Word) : (s.setDstIp v).keyLoaded = s.keyLoaded := rfl
@[simp] theorem setDstIp_len (s : State) (v : Word) : (s.setDstIp v).len = s.len := rfl
@[simp] theorem setDstIp_hash (s : State) (v : Word) : (s.setDstIp v).hash = s.hash := rfl
@[simp] theorem setDstIp_queue (s : State) (v : Word) : (s.setDstIp v).queue = s.queue := rfl
@[simp] theorem setDstIp_cpus (s : State) (v : Word) : (s.setDstIp v).cpus = s.cpus := rfl
@[simp] theorem setDstIp_queues (s : State) (v : Word) : (s.setDstIp v).queues = s.queues := rfl
@[simp] theorem setDstIp_srcIp (s : State) (v : Word) : (s.setDstIp v).srcIp = s.srcIp := rfl
@[simp] theorem setDstIp_dstIp (s : State) (v : Word) : (s.setDstIp v).dstIp = v := rfl
@[simp] theorem setDstIp_srcPort (s : State) (v : Word) : (s.setDstIp v).srcPort = s.srcPort := rfl
@[simp] theorem setDstIp_dstPort (s : State) (v : Word) : (s.setDstIp v).dstPort = s.dstPort := rfl
@[simp] theorem setDstIp_key (s : State) (v : Word) : (s.setDstIp v).key = s.key := rfl
@[simp] theorem setDstIp_data (s : State) (v : Word) : (s.setDstIp v).data = s.data := rfl
@[simp] theorem setDstIp_reta (s : State) (v : Word) : (s.setDstIp v).reta = s.reta := rfl
@[simp] theorem setDstIp_bus (s : State) (v : Word) : (s.setDstIp v).bus = s.bus := rfl
@[simp] theorem setDstIp_returned (s : State) (v : Word) : (s.setDstIp v).returned = s.returned := rfl

@[simp] theorem setSrcPort_cmd (s : State) (v : Word) : (s.setSrcPort v).cmd = s.cmd := rfl
@[simp] theorem setSrcPort_err (s : State) (v : Word) : (s.setSrcPort v).err = s.err := rfl
@[simp] theorem setSrcPort_retaValid (s : State) (v : Word) : (s.setSrcPort v).retaValid = s.retaValid := rfl
@[simp] theorem setSrcPort_keyLoaded (s : State) (v : Word) : (s.setSrcPort v).keyLoaded = s.keyLoaded := rfl
@[simp] theorem setSrcPort_len (s : State) (v : Word) : (s.setSrcPort v).len = s.len := rfl
@[simp] theorem setSrcPort_hash (s : State) (v : Word) : (s.setSrcPort v).hash = s.hash := rfl
@[simp] theorem setSrcPort_queue (s : State) (v : Word) : (s.setSrcPort v).queue = s.queue := rfl
@[simp] theorem setSrcPort_cpus (s : State) (v : Word) : (s.setSrcPort v).cpus = s.cpus := rfl
@[simp] theorem setSrcPort_queues (s : State) (v : Word) : (s.setSrcPort v).queues = s.queues := rfl
@[simp] theorem setSrcPort_srcIp (s : State) (v : Word) : (s.setSrcPort v).srcIp = s.srcIp := rfl
@[simp] theorem setSrcPort_dstIp (s : State) (v : Word) : (s.setSrcPort v).dstIp = s.dstIp := rfl
@[simp] theorem setSrcPort_srcPort (s : State) (v : Word) : (s.setSrcPort v).srcPort = v.extractLsb' 0 16 := rfl
@[simp] theorem setSrcPort_dstPort (s : State) (v : Word) : (s.setSrcPort v).dstPort = s.dstPort := rfl
@[simp] theorem setSrcPort_key (s : State) (v : Word) : (s.setSrcPort v).key = s.key := rfl
@[simp] theorem setSrcPort_data (s : State) (v : Word) : (s.setSrcPort v).data = s.data := rfl
@[simp] theorem setSrcPort_reta (s : State) (v : Word) : (s.setSrcPort v).reta = s.reta := rfl
@[simp] theorem setSrcPort_bus (s : State) (v : Word) : (s.setSrcPort v).bus = s.bus := rfl
@[simp] theorem setSrcPort_returned (s : State) (v : Word) : (s.setSrcPort v).returned = s.returned := rfl

@[simp] theorem setDstPort_cmd (s : State) (v : Word) : (s.setDstPort v).cmd = s.cmd := rfl
@[simp] theorem setDstPort_err (s : State) (v : Word) : (s.setDstPort v).err = s.err := rfl
@[simp] theorem setDstPort_retaValid (s : State) (v : Word) : (s.setDstPort v).retaValid = s.retaValid := rfl
@[simp] theorem setDstPort_keyLoaded (s : State) (v : Word) : (s.setDstPort v).keyLoaded = s.keyLoaded := rfl
@[simp] theorem setDstPort_len (s : State) (v : Word) : (s.setDstPort v).len = s.len := rfl
@[simp] theorem setDstPort_hash (s : State) (v : Word) : (s.setDstPort v).hash = s.hash := rfl
@[simp] theorem setDstPort_queue (s : State) (v : Word) : (s.setDstPort v).queue = s.queue := rfl
@[simp] theorem setDstPort_cpus (s : State) (v : Word) : (s.setDstPort v).cpus = s.cpus := rfl
@[simp] theorem setDstPort_queues (s : State) (v : Word) : (s.setDstPort v).queues = s.queues := rfl
@[simp] theorem setDstPort_srcIp (s : State) (v : Word) : (s.setDstPort v).srcIp = s.srcIp := rfl
@[simp] theorem setDstPort_dstIp (s : State) (v : Word) : (s.setDstPort v).dstIp = s.dstIp := rfl
@[simp] theorem setDstPort_srcPort (s : State) (v : Word) : (s.setDstPort v).srcPort = s.srcPort := rfl
@[simp] theorem setDstPort_dstPort (s : State) (v : Word) : (s.setDstPort v).dstPort = v.extractLsb' 0 16 := rfl
@[simp] theorem setDstPort_key (s : State) (v : Word) : (s.setDstPort v).key = s.key := rfl
@[simp] theorem setDstPort_data (s : State) (v : Word) : (s.setDstPort v).data = s.data := rfl
@[simp] theorem setDstPort_reta (s : State) (v : Word) : (s.setDstPort v).reta = s.reta := rfl
@[simp] theorem setDstPort_bus (s : State) (v : Word) : (s.setDstPort v).bus = s.bus := rfl
@[simp] theorem setDstPort_returned (s : State) (v : Word) : (s.setDstPort v).returned = s.returned := rfl

@[simp] theorem loadKey_cmd (s : State) (w : Fin 10) (v : Word) : (s.loadKey w v).cmd = s.cmd := rfl
@[simp] theorem loadKey_err (s : State) (w : Fin 10) (v : Word) : (s.loadKey w v).err = s.err := rfl
@[simp] theorem loadKey_retaValid (s : State) (w : Fin 10) (v : Word) : (s.loadKey w v).retaValid = s.retaValid := rfl
@[simp] theorem loadKey_keyLoaded (s : State) (w : Fin 10) (v : Word) : (s.loadKey w v).keyLoaded = s.keyLoaded ||| BitVec.twoPow 10 w := rfl
@[simp] theorem loadKey_len (s : State) (w : Fin 10) (v : Word) : (s.loadKey w v).len = s.len := rfl
@[simp] theorem loadKey_hash (s : State) (w : Fin 10) (v : Word) : (s.loadKey w v).hash = s.hash := rfl
@[simp] theorem loadKey_queue (s : State) (w : Fin 10) (v : Word) : (s.loadKey w v).queue = s.queue := rfl
@[simp] theorem loadKey_cpus (s : State) (w : Fin 10) (v : Word) : (s.loadKey w v).cpus = s.cpus := rfl
@[simp] theorem loadKey_queues (s : State) (w : Fin 10) (v : Word) : (s.loadKey w v).queues = s.queues := rfl
@[simp] theorem loadKey_srcIp (s : State) (w : Fin 10) (v : Word) : (s.loadKey w v).srcIp = s.srcIp := rfl
@[simp] theorem loadKey_dstIp (s : State) (w : Fin 10) (v : Word) : (s.loadKey w v).dstIp = s.dstIp := rfl
@[simp] theorem loadKey_srcPort (s : State) (w : Fin 10) (v : Word) : (s.loadKey w v).srcPort = s.srcPort := rfl
@[simp] theorem loadKey_dstPort (s : State) (w : Fin 10) (v : Word) : (s.loadKey w v).dstPort = s.dstPort := rfl
@[simp] theorem loadKey_key (s : State) (w : Fin 10) (v : Word) : (s.loadKey w v).key = s.key.set w v := rfl
@[simp] theorem loadKey_data (s : State) (w : Fin 10) (v : Word) : (s.loadKey w v).data = s.data := rfl
@[simp] theorem loadKey_reta (s : State) (w : Fin 10) (v : Word) : (s.loadKey w v).reta = s.reta := rfl
@[simp] theorem loadKey_bus (s : State) (w : Fin 10) (v : Word) : (s.loadKey w v).bus = s.bus := rfl
@[simp] theorem loadKey_returned (s : State) (w : Fin 10) (v : Word) : (s.loadKey w v).returned = s.returned := rfl

@[simp] theorem setData_cmd (s : State) (w : Fin 10) (v : Word) : (s.setData w v).cmd = s.cmd := rfl
@[simp] theorem setData_err (s : State) (w : Fin 10) (v : Word) : (s.setData w v).err = s.err := rfl
@[simp] theorem setData_retaValid (s : State) (w : Fin 10) (v : Word) : (s.setData w v).retaValid = s.retaValid := rfl
@[simp] theorem setData_keyLoaded (s : State) (w : Fin 10) (v : Word) : (s.setData w v).keyLoaded = s.keyLoaded := rfl
@[simp] theorem setData_len (s : State) (w : Fin 10) (v : Word) : (s.setData w v).len = s.len := rfl
@[simp] theorem setData_hash (s : State) (w : Fin 10) (v : Word) : (s.setData w v).hash = s.hash := rfl
@[simp] theorem setData_queue (s : State) (w : Fin 10) (v : Word) : (s.setData w v).queue = s.queue := rfl
@[simp] theorem setData_cpus (s : State) (w : Fin 10) (v : Word) : (s.setData w v).cpus = s.cpus := rfl
@[simp] theorem setData_queues (s : State) (w : Fin 10) (v : Word) : (s.setData w v).queues = s.queues := rfl
@[simp] theorem setData_srcIp (s : State) (w : Fin 10) (v : Word) : (s.setData w v).srcIp = s.srcIp := rfl
@[simp] theorem setData_dstIp (s : State) (w : Fin 10) (v : Word) : (s.setData w v).dstIp = s.dstIp := rfl
@[simp] theorem setData_srcPort (s : State) (w : Fin 10) (v : Word) : (s.setData w v).srcPort = s.srcPort := rfl
@[simp] theorem setData_dstPort (s : State) (w : Fin 10) (v : Word) : (s.setData w v).dstPort = s.dstPort := rfl
@[simp] theorem setData_key (s : State) (w : Fin 10) (v : Word) : (s.setData w v).key = s.key := rfl
@[simp] theorem setData_data (s : State) (w : Fin 10) (v : Word) : (s.setData w v).data = s.data.set w v := rfl
@[simp] theorem setData_reta (s : State) (w : Fin 10) (v : Word) : (s.setData w v).reta = s.reta := rfl
@[simp] theorem setData_bus (s : State) (w : Fin 10) (v : Word) : (s.setData w v).bus = s.bus := rfl
@[simp] theorem setData_returned (s : State) (w : Fin 10) (v : Word) : (s.setData w v).returned = s.returned := rfl

@[simp] theorem installTable_cmd (s : State) (q : Word) (t : Vector (BitVec 7) 128) : (s.installTable q t).cmd = s.cmd := rfl
@[simp] theorem installTable_err (s : State) (q : Word) (t : Vector (BitVec 7) 128) : (s.installTable q t).err = s.err := rfl
@[simp] theorem installTable_retaValid (s : State) (q : Word) (t : Vector (BitVec 7) 128) : (s.installTable q t).retaValid = true := rfl
@[simp] theorem installTable_keyLoaded (s : State) (q : Word) (t : Vector (BitVec 7) 128) : (s.installTable q t).keyLoaded = s.keyLoaded := rfl
@[simp] theorem installTable_len (s : State) (q : Word) (t : Vector (BitVec 7) 128) : (s.installTable q t).len = s.len := rfl
@[simp] theorem installTable_hash (s : State) (q : Word) (t : Vector (BitVec 7) 128) : (s.installTable q t).hash = s.hash := rfl
@[simp] theorem installTable_queue (s : State) (q : Word) (t : Vector (BitVec 7) 128) : (s.installTable q t).queue = s.queue := rfl
@[simp] theorem installTable_cpus (s : State) (q : Word) (t : Vector (BitVec 7) 128) : (s.installTable q t).cpus = s.cpus := rfl
@[simp] theorem installTable_queues (s : State) (q : Word) (t : Vector (BitVec 7) 128) : (s.installTable q t).queues = q := rfl
@[simp] theorem installTable_srcIp (s : State) (q : Word) (t : Vector (BitVec 7) 128) : (s.installTable q t).srcIp = s.srcIp := rfl
@[simp] theorem installTable_dstIp (s : State) (q : Word) (t : Vector (BitVec 7) 128) : (s.installTable q t).dstIp = s.dstIp := rfl
@[simp] theorem installTable_srcPort (s : State) (q : Word) (t : Vector (BitVec 7) 128) : (s.installTable q t).srcPort = s.srcPort := rfl
@[simp] theorem installTable_dstPort (s : State) (q : Word) (t : Vector (BitVec 7) 128) : (s.installTable q t).dstPort = s.dstPort := rfl
@[simp] theorem installTable_key (s : State) (q : Word) (t : Vector (BitVec 7) 128) : (s.installTable q t).key = s.key := rfl
@[simp] theorem installTable_data (s : State) (q : Word) (t : Vector (BitVec 7) 128) : (s.installTable q t).data = s.data := rfl
@[simp] theorem installTable_reta (s : State) (q : Word) (t : Vector (BitVec 7) 128) : (s.installTable q t).reta = t := rfl
@[simp] theorem installTable_bus (s : State) (q : Word) (t : Vector (BitVec 7) 128) : (s.installTable q t).bus = s.bus := rfl
@[simp] theorem installTable_returned (s : State) (q : Word) (t : Vector (BitVec 7) 128) : (s.installTable q t).returned = s.returned := rfl

@[simp] theorem setBus_cmd (s : State) (es : List Event) : (s.setBus es).cmd = s.cmd := rfl
@[simp] theorem setBus_err (s : State) (es : List Event) : (s.setBus es).err = s.err := rfl
@[simp] theorem setBus_retaValid (s : State) (es : List Event) : (s.setBus es).retaValid = s.retaValid := rfl
@[simp] theorem setBus_keyLoaded (s : State) (es : List Event) : (s.setBus es).keyLoaded = s.keyLoaded := rfl
@[simp] theorem setBus_len (s : State) (es : List Event) : (s.setBus es).len = s.len := rfl
@[simp] theorem setBus_hash (s : State) (es : List Event) : (s.setBus es).hash = s.hash := rfl
@[simp] theorem setBus_queue (s : State) (es : List Event) : (s.setBus es).queue = s.queue := rfl
@[simp] theorem setBus_cpus (s : State) (es : List Event) : (s.setBus es).cpus = s.cpus := rfl
@[simp] theorem setBus_queues (s : State) (es : List Event) : (s.setBus es).queues = s.queues := rfl
@[simp] theorem setBus_srcIp (s : State) (es : List Event) : (s.setBus es).srcIp = s.srcIp := rfl
@[simp] theorem setBus_dstIp (s : State) (es : List Event) : (s.setBus es).dstIp = s.dstIp := rfl
@[simp] theorem setBus_srcPort (s : State) (es : List Event) : (s.setBus es).srcPort = s.srcPort := rfl
@[simp] theorem setBus_dstPort (s : State) (es : List Event) : (s.setBus es).dstPort = s.dstPort := rfl
@[simp] theorem setBus_key (s : State) (es : List Event) : (s.setBus es).key = s.key := rfl
@[simp] theorem setBus_data (s : State) (es : List Event) : (s.setBus es).data = s.data := rfl
@[simp] theorem setBus_reta (s : State) (es : List Event) : (s.setBus es).reta = s.reta := rfl
@[simp] theorem setBus_bus (s : State) (es : List Event) : (s.setBus es).bus = es := rfl
@[simp] theorem setBus_returned (s : State) (es : List Event) : (s.setBus es).returned = s.returned := rfl

@[simp] theorem pushReturned_cmd (s : State) (v : Word) : (s.pushReturned v).cmd = s.cmd := rfl
@[simp] theorem pushReturned_err (s : State) (v : Word) : (s.pushReturned v).err = s.err := rfl
@[simp] theorem pushReturned_retaValid (s : State) (v : Word) : (s.pushReturned v).retaValid = s.retaValid := rfl
@[simp] theorem pushReturned_keyLoaded (s : State) (v : Word) : (s.pushReturned v).keyLoaded = s.keyLoaded := rfl
@[simp] theorem pushReturned_len (s : State) (v : Word) : (s.pushReturned v).len = s.len := rfl
@[simp] theorem pushReturned_hash (s : State) (v : Word) : (s.pushReturned v).hash = s.hash := rfl
@[simp] theorem pushReturned_queue (s : State) (v : Word) : (s.pushReturned v).queue = s.queue := rfl
@[simp] theorem pushReturned_cpus (s : State) (v : Word) : (s.pushReturned v).cpus = s.cpus := rfl
@[simp] theorem pushReturned_queues (s : State) (v : Word) : (s.pushReturned v).queues = s.queues := rfl
@[simp] theorem pushReturned_srcIp (s : State) (v : Word) : (s.pushReturned v).srcIp = s.srcIp := rfl
@[simp] theorem pushReturned_dstIp (s : State) (v : Word) : (s.pushReturned v).dstIp = s.dstIp := rfl
@[simp] theorem pushReturned_srcPort (s : State) (v : Word) : (s.pushReturned v).srcPort = s.srcPort := rfl
@[simp] theorem pushReturned_dstPort (s : State) (v : Word) : (s.pushReturned v).dstPort = s.dstPort := rfl
@[simp] theorem pushReturned_key (s : State) (v : Word) : (s.pushReturned v).key = s.key := rfl
@[simp] theorem pushReturned_data (s : State) (v : Word) : (s.pushReturned v).data = s.data := rfl
@[simp] theorem pushReturned_reta (s : State) (v : Word) : (s.pushReturned v).reta = s.reta := rfl
@[simp] theorem pushReturned_bus (s : State) (v : Word) : (s.pushReturned v).bus = s.bus := rfl
@[simp] theorem pushReturned_returned (s : State) (v : Word) : (s.pushReturned v).returned = s.returned ++ [v] := rfl

@[simp] theorem resetRegisters_cmd (s : State) : s.resetRegisters.cmd = State.reset.cmd := rfl
@[simp] theorem resetRegisters_err (s : State) : s.resetRegisters.err = State.reset.err := rfl
@[simp] theorem resetRegisters_retaValid (s : State) : s.resetRegisters.retaValid = State.reset.retaValid := rfl
@[simp] theorem resetRegisters_keyLoaded (s : State) : s.resetRegisters.keyLoaded = State.reset.keyLoaded := rfl
@[simp] theorem resetRegisters_len (s : State) : s.resetRegisters.len = State.reset.len := rfl
@[simp] theorem resetRegisters_hash (s : State) : s.resetRegisters.hash = State.reset.hash := rfl
@[simp] theorem resetRegisters_queue (s : State) : s.resetRegisters.queue = State.reset.queue := rfl
@[simp] theorem resetRegisters_cpus (s : State) : s.resetRegisters.cpus = State.reset.cpus := rfl
@[simp] theorem resetRegisters_queues (s : State) : s.resetRegisters.queues = State.reset.queues := rfl
@[simp] theorem resetRegisters_srcIp (s : State) : s.resetRegisters.srcIp = State.reset.srcIp := rfl
@[simp] theorem resetRegisters_dstIp (s : State) : s.resetRegisters.dstIp = State.reset.dstIp := rfl
@[simp] theorem resetRegisters_srcPort (s : State) : s.resetRegisters.srcPort = State.reset.srcPort := rfl
@[simp] theorem resetRegisters_dstPort (s : State) : s.resetRegisters.dstPort = State.reset.dstPort := rfl
@[simp] theorem resetRegisters_key (s : State) : s.resetRegisters.key = State.reset.key := rfl
@[simp] theorem resetRegisters_data (s : State) : s.resetRegisters.data = State.reset.data := rfl
@[simp] theorem resetRegisters_reta (s : State) : s.resetRegisters.reta = State.reset.reta := rfl
@[simp] theorem resetRegisters_bus (s : State) : s.resetRegisters.bus = s.bus := rfl
@[simp] theorem resetRegisters_returned (s : State) : s.resetRegisters.returned = s.returned := rfl

end Sys2Proof.Machine.State
end

