-- ==== Sys2Proof/Laws/Ops.lean ====
section
/-! SUPPORT. The register map and the ends of a command, each said once: the offset of a register leads back to it, and a
command's end writes `ERR` alone. -/

namespace Sys2Proof.Machine

/-- The whole effect of `raise` (60_exceptions.md R203). -/
@[simp] theorem raise_eq (s : State) (e : ErrorKind) : s.raise e = .next (s.setErr (errorCode e)) := rfl

/-- The whole effect of a success (60_exceptions.md R202). -/
@[simp] theorem succeed_eq (s : State) : s.succeed = .next (s.setErr 0) := rfl

theorem arrayIndex_self (first words : Nat) (w : Fin words) (h : first % 4 = 0) :
    arrayIndex first words (first + 4 * w) = some w := by
  have hw := w.isLt
  unfold arrayIndex
  rw [dif_pos ⟨by omega, by omega, by omega⟩]
  congr 1
  apply Fin.ext
  simp

theorem arrayIndex_eq_some {first words off : Nat} {w : Fin words} (h : arrayIndex first words off = some w)
    (h4 : first % 4 = 0) : off = first + 4 * w := by
  unfold arrayIndex at h
  split at h
  · next hc =>
    cases h
    simp only
    omega
  · cases h

theorem arrayIndex_eq_none {first words off : Nat} (h : off < first ∨ first + 4 * words ≤ off ∨ off % 4 ≠ 0) :
    arrayIndex first words off = none := by
  unfold arrayIndex
  rw [dif_neg]
  rintro ⟨h₁, h₂, h₃⟩
  omega

theorem regAt_of_high (off : BitVec 10) (h : 0x028 < off.toNat) : regAt off = arrayAt off.toNat := by
  unfold regAt
  split <;> first | omega | rfl

theorem regOffset_key_toNat (w : Fin 10) : (regOffset (.key w)).toNat = 0x040 + 4 * w := by
  have := w.isLt
  simp only [regOffset, BitVec.toNat_ofNat]
  omega

theorem regOffset_data_toNat (w : Fin 10) : (regOffset (.data w)).toNat = 0x080 + 4 * w := by
  have := w.isLt
  simp only [regOffset, BitVec.toNat_ofNat]
  omega

theorem regOffset_reta_toNat (i : Fin 128) : (regOffset (.reta i)).toNat = 0x200 + 4 * i := by
  have := i.isLt
  simp only [regOffset, BitVec.toNat_ofNat]
  omega

/-- The register at a register's offset is that register (20_memory.md R62). -/
@[simp] theorem regAt_regOffset (r : Reg) : regAt (regOffset r) = some r := by
  cases r with
  | key w =>
    rw [regAt_of_high _ (by rw [regOffset_key_toNat]; omega), regOffset_key_toNat, arrayAt,
      arrayIndex_self _ _ _ (by rfl)]
    rfl
  | data w =>
    have := w.isLt
    rw [regAt_of_high _ (by rw [regOffset_data_toNat]; omega), regOffset_data_toNat, arrayAt,
      arrayIndex_eq_none (by omega), arrayIndex_self _ _ _ (by rfl)]
    rfl
  | reta i =>
    have := i.isLt
    rw [regAt_of_high _ (by rw [regOffset_reta_toNat]; omega), regOffset_reta_toNat, arrayAt,
      arrayIndex_eq_none (by omega), arrayIndex_eq_none (by omega), arrayIndex_self _ _ _ (by rfl)]
    rfl
  | _ => rfl

/-- A register's offset is a multiple of 4 (20_memory.md R64). -/
theorem regOffset_aligned (r : Reg) : (regOffset r).extractLsb' 0 2 = 0#2 := by
  apply BitVec.eq_of_toNat_eq
  rw [BitVec.extractLsb'_toNat]
  cases r with
  | key w => rw [regOffset_key_toNat, Nat.shiftRight_zero]; simp
  | data w => rw [regOffset_data_toNat, Nat.shiftRight_zero]; simp
  | reta i => rw [regOffset_reta_toNat, Nat.shiftRight_zero]; simp
  | _ => rfl

/-- What an offset in an array says about itself: it is the offset of the register named. -/
theorem regOffset_of_arrayAt {off : BitVec 10} {r : Reg} (h : arrayAt off.toNat = some r) : off = regOffset r := by
  unfold arrayAt at h
  apply BitVec.eq_of_toNat_eq
  cases hk : arrayIndex 0x040 10 off.toNat with
  | some w =>
    rw [hk] at h
    cases h
    rw [regOffset_key_toNat]
    exact arrayIndex_eq_some hk (by rfl)
  | none =>
    cases hd : arrayIndex 0x080 10 off.toNat with
    | some w =>
      rw [hk, hd] at h
      cases h
      rw [regOffset_data_toNat]
      exact arrayIndex_eq_some hd (by rfl)
    | none =>
      cases hr : arrayIndex 0x200 128 off.toNat with
      | some i =>
        rw [hk, hd, hr] at h
        cases h
        rw [regOffset_reta_toNat]
        exact arrayIndex_eq_some hr (by rfl)
      | none =>
        rw [hk, hd, hr] at h
        cases h

end Sys2Proof.Machine
end

