-- ==== Sys2Proof/Laws/Bus.lean ====
section
/-! SUPPORT. The bus: what one host access and one step can do, each said once. -/

namespace Sys2Proof.Machine

@[simp] theorem alignedWord_read (off : BitVec 10) (size : Nat) :
    (Access.read off size).alignedWord = (size == 4 && off.extractLsb' 0 2 == 0#2) := rfl

@[simp] theorem alignedWord_write (off : BitVec 10) (size : Nat) (v : Word) :
    (Access.write off size v).alignedWord = (size == 4 && off.extractLsb' 0 2 == 0#2) := rfl

/-- A word read at a register's offset (20_memory.md R66). -/
theorem hostAccess_read (r : Reg) (s : State) :
    hostAccess (.read (regOffset r) 4) s = .next (s.pushReturned (regRead s r)) := by
  simp [hostAccess, regOffset_aligned, Access.off]

/-- A word write at a register's offset (20_memory.md R67). -/
theorem hostAccess_write (r : Reg) (v : Word) (s : State) :
    hostAccess (.write (regOffset r) 4 v) s = regWrite r v s := by
  simp [hostAccess, regOffset_aligned, Access.off]

/-- The whole effect of a performed write: a command for `CMD`, and one named update for every other read-write register
(20_memory.md R67). -/
theorem regWrite_next {r : Reg} {v : Word} {s t : State} (h : regWrite r v s = .next t) :
    (r = .cmd ∧ execute v (s.setCmd v) = .next t) ∨
    (r = .len ∧ t = s.setLen v) ∨ (r = .hash ∧ t = s.setHash v) ∨ (r = .cpus ∧ t = s.setCpus v) ∨
    (r = .srcIp ∧ t = s.setSrcIp v) ∨ (r = .dstIp ∧ t = s.setDstIp v) ∨
    (r = .srcPort ∧ t = s.setSrcPort v) ∨ (r = .dstPort ∧ t = s.setDstPort v) ∨
    (∃ w, r = .key w ∧ t = s.loadKey w v) ∨ ∃ w, r = .data w ∧ t = s.setData w v := by
  cases r with
  | cmd => exact .inl ⟨rfl, h⟩
  | status => cases h
  | queue => cases h
  | queues => cases h
  | reta => cases h
  | _ =>
    simp only [regWrite, Host.Outcome.next.injEq] at h
    simp [h.symm]

/-- Two registers at one offset are one register. -/
theorem regOffset_injective {r r' : Reg} (h : regOffset r = regOffset r') : r = r' := by
  have hr := regAt_regOffset r
  rw [h, regAt_regOffset] at hr
  exact (Option.some.inj hr).symm

/-- An access that is performed is an aligned word access to a register: a read that hands out its value, or a write
(20_memory.md R65). -/
theorem hostAccess_next {a : Access} {s t : State} (h : hostAccess a s = .next t) :
    a.alignedWord = true ∧ ∃ r, regAt a.off = some r ∧
      ((∃ size, a = .read a.off size ∧ t = s.pushReturned (regRead s r)) ∨
        ∃ size v, a = .write a.off size v ∧ regWrite r v s = .next t) := by
  unfold hostAccess at h
  split at h
  · cases h
  · next ha =>
    refine ⟨by simpa using ha, ?_⟩
    split at h
    · cases h
    · next off size hr => cases h; exact ⟨_, hr, .inl ⟨size, rfl, rfl⟩⟩
    · next off size v hr => exact ⟨_, hr, .inr ⟨size, v, rfl, h⟩⟩

/-- With nothing waiting a step changes nothing. -/
theorem step_of_bus_nil {s : State} (h : s.bus = []) : step s = .next s := by
  simp [step, h]

/-- With an event waiting a step performs it on the state whose bus holds the rest. -/
theorem step_of_bus_cons {s : State} {e : Event} {rest : List Event} (h : s.bus = e :: rest) :
    step s = perform e (s.setBus rest) := by
  simp [step, h]

@[simp] theorem perform_access (a : Access) (s : State) : perform (.access a) s = hostAccess a s := rfl

@[simp] theorem perform_reset (a : Option Access) (s : State) : perform (.reset a) s = .next s.resetRegisters := rfl

/-- Everything a step that goes on can do: idle, reset the registers, hand out a register, or write one (which, for
`CMD`, runs a command). -/
theorem step_next {s t : State} (h : step s = .next t) :
    (s.bus = [] ∧ t = s) ∨
    (∃ a rest, s.bus = .reset a :: rest ∧ t = (s.setBus rest).resetRegisters) ∨
    (∃ off size rest r, s.bus = .access (.read off size) :: rest ∧ regAt off = some r ∧
      t = (s.setBus rest).pushReturned (regRead (s.setBus rest) r)) ∨
    ∃ off size v rest r, s.bus = .access (.write off size v) :: rest ∧ regAt off = some r ∧
      (Access.write off size v).alignedWord = true ∧ regWrite r v (s.setBus rest) = .next t := by
  rcases hb : s.bus with - | ⟨e, rest⟩
  · rw [step_of_bus_nil hb] at h
    cases h
    exact .inl ⟨rfl, rfl⟩
  · rw [step_of_bus_cons hb] at h
    cases e with
    | reset a =>
      cases h
      exact .inr (.inl ⟨a, rest, rfl, rfl⟩)
    | access a =>
      obtain ⟨ha, r, hr, ⟨size, hread, ht⟩ | ⟨size, v, hwrite, hw⟩⟩ := hostAccess_next h
      · exact .inr (.inr (.inl ⟨a.off, size, rest, r, by rw [← hread], hr, ht⟩))
      · exact .inr (.inr (.inr ⟨a.off, size, v, rest, r, by rw [← hwrite], hr, by rw [← hwrite]; exact ha, hw⟩))

end Sys2Proof.Machine
end

