-- ==== Sys2Proof/Laws/Commands.lean ====
section
/-! SUPPORT. One inversion lemma per command with more than one end: if it answers a next state, which of its ends that
was, guards included. The other commands have one end and are equations. -/

namespace Sys2Proof.Machine

theorem execNop_eq (s : State) : execNop s = .next (s.setErr 0) := rfl

theorem execIllegal_eq (rsvd : BitVec 24) (op : BitVec 8) (s : State) : execIllegal rsvd op s = .next (s.setErr 5) := rfl

theorem execEncodePair_eq (s : State) :
    execEncodePair s = .next (((((s.setData 0 s.srcIp).setData 1 s.dstIp)).setLen 8).setErr 0) := rfl

theorem execEncodeTuple_eq (s : State) :
    execEncodeTuple s =
      .next (((((s.setData 0 s.srcIp).setData 1 s.dstIp).setData 2 (s.srcPort ++ s.dstPort)).setLen 12).setErr 0) := rfl

theorem keyFullyLoaded_iff (s : State) : keyFullyLoaded s = true ↔ s.keyLoaded = 0b1111111111#10 := by
  simp [keyFullyLoaded]

/-- The three ends of HASH (40_toeplitz.md R120). -/
theorem execHash_next {s t : State} (h : execHash s = .next t) :
    (s.keyLoaded ≠ 0b1111111111#10 ∧ t = s.setErr 3) ∨
    (s.keyLoaded = 0b1111111111#10 ∧ 40 < s.len.toNat ∧ t = s.setErr 1) ∨
    (s.keyLoaded = 0b1111111111#10 ∧ s.len.toNat ≤ 40 ∧
      t = (s.setHash (toeplitz (keyValue s) (hashInput s s.len.toNat))).setErr 0) := by
  unfold execHash at h
  split at h
  · next hk =>
    cases h
    exact .inl ⟨by simpa [keyFullyLoaded] using hk, rfl⟩
  · next hk =>
    have hk' : s.keyLoaded = 0b1111111111#10 := by simpa [keyFullyLoaded] using hk
    split at h
    · next hn => cases h; exact .inr (.inl ⟨hk', hn, rfl⟩)
    · next hn => cases h; exact .inr (.inr ⟨hk', Nat.le_of_not_lt hn, rfl⟩)

/-- The two ends of BUILD_RETA (42_reta.md R160). -/
theorem execBuildReta_next {s t : State} (h : execBuildReta s = .next t) :
    (s.cpus = 0 ∧ t = s.setErr 2) ∨
    (s.cpus ≠ 0 ∧
      t = (s.installTable (BitVec.ofNat 32 (queueCount s.cpus)) (retaTable (queueCount s.cpus))).setErr 0) := by
  unfold execBuildReta at h
  split at h
  · next hc => cases h; exact .inl ⟨hc, rfl⟩
  · next hc => cases h; exact .inr ⟨hc, rfl⟩

/-- The two ends of QUEUE_OF (42_reta.md R163). -/
theorem execQueueOf_next {s t : State} (h : execQueueOf s = .next t) :
    (s.retaValid = false ∧ t = s.setErr 4) ∨
    (s.retaValid = true ∧ t = (s.setQueue s.reta[retaSlot s.hash]).setErr 0) := by
  unfold execQueueOf at h
  split at h
  · next hv => cases h; exact .inl ⟨by simpa using hv, rfl⟩
  · next hv => cases h; exact .inr ⟨by simpa using hv, rfl⟩

/-- The count of queues fits the `QUEUES` register (42_reta.md R160). -/
theorem queueCount_toNat (c : Word) : (BitVec.ofNat 32 (queueCount c)).toNat = max 16 c.toNat := by
  have hc := c.isLt
  simp only [queueCount, Config.minQueues, BitVec.toNat_ofNat]
  omega

theorem reversedIndex_lt {i : Nat} (h : i < 128) : reversedIndex i < 128 := by
  unfold reversedIndex
  omega

/-- An entry of the table, as a number: the seven bits hold it (42_reta.md R161). -/
theorem retaTable_toNat (q : Nat) (i : Fin 128) : ((retaTable q)[i]).toNat = retaEntry i q := by
  have h : retaEntry i q < 128 :=
    Nat.lt_of_le_of_lt (Nat.mod_le _ _) (reversedIndex_lt i.isLt)
  simp [retaTable, Nat.mod_eq_of_lt h]

end Sys2Proof.Machine
end

