-- ==== Sys2Proof/Laws/Decode.lean ====
section
/-! SUPPORT. The two fields of a command word (30_encoding.md R90): they join to the word, and come apart again. -/

namespace Sys2Proof

theorem join_fields_getLsbD (rsvd : BitVec 24) (op : BitVec 8) (i : Nat) :
    BitVec.getLsbD (rsvd ++ op : Word) i = if i < 8 then op.getLsbD i else rsvd.getLsbD (i - 8) :=
  BitVec.getLsbD_append

@[simp] theorem opField_join (rsvd : BitVec 24) (op : BitVec 8) : opField (rsvd ++ op : Word) = op := by
  apply BitVec.eq_of_getLsbD_eq
  intro i hi
  rw [opField, BitVec.getLsbD_extractLsb', join_fields_getLsbD]
  simp [hi]

@[simp] theorem rsvdField_join (rsvd : BitVec 24) (op : BitVec 8) : rsvdField (rsvd ++ op : Word) = rsvd := by
  apply BitVec.eq_of_getLsbD_eq
  intro i hi
  rw [rsvdField, BitVec.getLsbD_extractLsb', join_fields_getLsbD]
  simp [hi]

@[simp] theorem join_fields (v : Word) : (rsvdField v ++ opField v : Word) = v := by
  apply BitVec.eq_of_getLsbD_eq
  intro i hi
  rw [join_fields_getLsbD, rsvdField, opField, BitVec.getLsbD_extractLsb', BitVec.getLsbD_extractLsb']
  split
  · next h => simp [h]
  · next h => simp only [show i - 8 < 24 by omega, show 8 + (i - 8) = i by omega, decide_true, Bool.true_and]

/-- A word with a reserved bit set is illegal (30_encoding.md R94). -/
theorem decode_of_rsvd {v : Word} (h : rsvdField v ≠ 0#24) : decode v = .illegal (rsvdField v) (opField v) := by
  rw [decode, if_pos h]

/-- A word with an opcode in 0x06..0xFF is illegal (30_encoding.md R94). -/
theorem decode_of_op {v : Word} (h : 6 ≤ (opField v).toNat) : decode v = .illegal (rsvdField v) (opField v) := by
  unfold decode
  split
  · rfl
  · split <;> first | omega | rfl

end Sys2Proof
end

