-- ==== Sys2Proof/Laws/Operands.lean ====
section
/-! SUPPORT. The bits of the composed values: `STATUS` from its fields, and `KeyValue` from its ten words. -/

namespace Sys2Proof.Machine

/-- The bits of ten concatenated words, word `w` counted from the least significant (00_scope.md R10). -/
theorem joinKey_getLsbD_word (k : Vector Word 10) (w : Fin 10) (p : Nat) (hp : p < 32) :
    (joinKey k).getLsbD (32 * w + p) = (k[9 - w.val]).getLsbD p := by
  have hi : ∀ {m : Nat} (x : BitVec m) (y : Word) (q : Nat), (x ++ y).getLsbD (32 + q) = x.getLsbD q := by
    intro m x y q
    rw [BitVec.getLsbD_append, if_neg (by omega), Nat.add_sub_cancel_left]
  have lo : ∀ q < 32, ∀ {m : Nat} (x : BitVec m) (y : Word), (x ++ y).getLsbD q = y.getLsbD q := by
    intro q hq m x y
    rw [BitVec.getLsbD_append, if_pos hq]
  show BitVec.getLsbD (((((((((k[0] ++ k[1]) ++ k[2]) ++ k[3]) ++ k[4]) ++ k[5]) ++ k[6]) ++ k[7]) ++ k[8]) ++ k[9]) _ = _
  match w with
  | ⟨0, _⟩ => simpa only [Nat.mul_zero, Nat.zero_add] using lo p hp _ _
  | ⟨1, _⟩ => simp only [show 32 * 1 + p = 32 + p by omega, hi, lo p hp]
  | ⟨2, _⟩ => simp only [show 32 * 2 + p = 32 + (32 + p) by omega, hi, lo p hp]
  | ⟨3, _⟩ => simp only [show 32 * 3 + p = 32 + (32 + (32 + p)) by omega, hi, lo p hp]
  | ⟨4, _⟩ => simp only [show 32 * 4 + p = 32 + (32 + (32 + (32 + p))) by omega, hi, lo p hp]
  | ⟨5, _⟩ => simp only [show 32 * 5 + p = 32 + (32 + (32 + (32 + (32 + p)))) by omega, hi, lo p hp]
  | ⟨6, _⟩ => simp only [show 32 * 6 + p = 32 + (32 + (32 + (32 + (32 + (32 + p))))) by omega, hi, lo p hp]
  | ⟨7, _⟩ => simp only [show 32 * 7 + p = 32 + (32 + (32 + (32 + (32 + (32 + (32 + p)))))) by omega, hi, lo p hp]
  | ⟨8, _⟩ => simp only [show 32 * 8 + p = 32 + (32 + (32 + (32 + (32 + (32 + (32 + (32 + p))))))) by omega, hi, lo p hp]
  | ⟨9, _⟩ => simp only [show 32 * 9 + p = 32 + (32 + (32 + (32 + (32 + (32 + (32 + (32 + (32 + p)))))))) by omega, hi]

/-- Bit `q` of the key, counted from the least significant, is a bit of word `9 - q / 32`. -/
theorem joinKey_getLsbD (k : Vector Word 10) (q : Nat) (hq : q < 320) :
    (joinKey k).getLsbD q = (k[9 - q / 32]).getLsbD (q % 32) := by
  have := joinKey_getLsbD_word k ⟨q / 32, by omega⟩ (q % 32) (Nat.mod_lt _ (by decide))
  rwa [show 32 * ((⟨q / 32, by omega⟩ : Fin 10) : Nat) + q % 32 = q from Nat.div_add_mod q 32] at this

/-- The bits of `STATUS` by their number (10_state.md R24). -/
theorem statusWord_getLsbD (s : State) (i : Nat) : (statusWord s).getLsbD i =
    if i < 8 then s.err.getLsbD i
    else if i = 8 then s.retaValid
    else if i < 16 then false
    else if i < 26 then s.keyLoaded.getLsbD (i - 16)
    else false := by
  show BitVec.getLsbD ((((0#6 ++ s.keyLoaded) ++ 0#7) ++ BitVec.ofBool s.retaValid) ++ s.err) i = _
  rw [BitVec.getLsbD_append, BitVec.getLsbD_append, BitVec.getLsbD_append, BitVec.getLsbD_append]
  by_cases h8 : i < 8
  · rw [if_pos h8, if_pos h8]
  by_cases h : i = 8
  · simp [h]
  rw [if_neg h8, if_neg h8, if_neg h, if_neg (show ¬(i - 8 < 1) by omega)]
  by_cases h16 : i < 16
  · rw [if_pos (show i - 8 - 1 < 7 by omega), if_pos h16, BitVec.getLsbD_zero]
  rw [if_neg h16, if_neg (show ¬(i - 8 - 1 < 7) by omega)]
  by_cases h26 : i < 26
  · rw [if_pos (show i - 8 - 1 - 7 < 10 by omega), if_pos h26, show i - 8 - 1 - 7 = i - 16 by omega]
  · rw [if_neg (show ¬(i - 8 - 1 - 7 < 10) by omega), if_neg h26, BitVec.getLsbD_zero]

end Sys2Proof.Machine
end

