-- ==== Sys2Proof/Laws/PerInstr.lean ====
section
/-! SUPPORT. Facts about the instructions as syntax, one lemma per constructor. -/

namespace Sys2Proof.Laws.OwnTableWord

/-- The opcode map's six words (30_encoding.md R91). -/
def rowWords : List Word := [0x00000000, 0x00000001, 0x00000002, 0x00000003, 0x00000004, 0x00000005]

/-- A command is encoded as one of the map's six words exactly when it is one of the six commands: no illegal command
shares a word with a row. -/
def Statement (i : Instr) : Prop :=
  i.wellFormed = true → (encode i ∈ rowWords ↔ ∀ rsvd op, i ≠ .illegal rsvd op)

theorem nop : Statement .nop := by simp [Statement, encode, rowWords]

theorem hash : Statement .hash := by simp [Statement, encode, rowWords]

theorem encodePair : Statement .encodePair := by simp [Statement, encode, rowWords]

theorem encodeTuple : Statement .encodeTuple := by simp [Statement, encode, rowWords]

theorem buildReta : Statement .buildReta := by simp [Statement, encode, rowWords]

theorem queueOf : Statement .queueOf := by simp [Statement, encode, rowWords]

/-- An illegal word is at least 6, since its reserved field is not 0 or its opcode is at least 6. -/
theorem illegal (rsvd : BitVec 24) (op : BitVec 8) : Statement (.illegal rsvd op) := by
  intro hwf
  have hop := op.isLt
  have hv : (rsvd ++ op : Word).toNat = rsvd.toNat * 256 + op.toNat := by
    rw [BitVec.toNat_append, ← Nat.shiftLeft_add_eq_or_of_lt hop, Nat.shiftLeft_eq]
  have h6 : 6 ≤ (rsvd ++ op : Word).toNat := by
    rw [hv]
    simp only [Instr.wellFormed, illegalFields, Bool.or_eq_true, bne_iff_ne, ne_eq, decide_eq_true_eq] at hwf
    rcases hwf with h | h
    · have : rsvd.toNat ≠ 0 := fun h0 => h (BitVec.eq_of_toNat_eq h0)
      omega
    · omega
  constructor
  · intro hm
    simp only [rowWords, encode, List.mem_cons, List.not_mem_nil, or_false] at hm
    rcases hm with h | h | h | h | h | h <;> rw [h] at h6 <;> exact absurd h6 (by decide)
  · intro h
    exact absurd rfl (h rsvd op)

end Sys2Proof.Laws.OwnTableWord
end

