-- ==== Sys2Proof/Laws/Runs.lean ====
section
/-! SUPPORT. Runs, one step at a time. -/

namespace Sys2Proof.Machine

/-- A run of any machine goes on from a step that goes on. -/
theorem core_run_succ (M : Host.Core) (k : Nat) (s u : M.State) :
    M.run (k + 1) s = .next u ↔ ∃ t, M.step s = .next t ∧ M.run k t = .next u := by
  simp only [Host.Core.run]
  cases M.step s <;> simp

theorem runsTo_zero {s t : State} : RunsTo 0 s t ↔ t = s :=
  ⟨fun h => (Host.Outcome.next.inj h).symm, fun h => h ▸ rfl⟩

/-- A run of one more step is a step that goes on and a run from where it leads. -/
theorem runsTo_succ {k : Nat} {s u : State} : RunsTo (k + 1) s u ↔ ∃ t, step s = .next t ∧ RunsTo k t u :=
  core_run_succ Sys2Proof.core k s u

end Sys2Proof.Machine
end

