-- ==== Sys2Proof/Laws/Toeplitz.lean ====
section
/-! SUPPORT. The hash engine bit by bit: what one bit and one byte do to the working key and to the accumulator. -/

namespace Sys2Proof.Machine

@[simp] theorem feedBit_wk (e : Engine) (b : Bool) : (e.feedBit b).wk = e.wk <<< 1 := rfl

theorem feedBit_acc (e : Engine) (b : Bool) :
    (e.feedBit b).acc = e.acc ^^^ if b then e.wk.extractLsb' 288 32 else 0 := by
  cases b <;> simp [Engine.feedBit, Engine.window]

/-- The bits of a byte string in the order the engine takes them (40_toeplitz.md R121). -/
def inputBits (d : List Byte) : List Bool := d.flatMap byteBits

@[simp] theorem byteBits_length (b : Byte) : (byteBits b).length = 8 := by
  simp [byteBits]

/-- Feeding bytes is feeding their bits. -/
theorem foldl_feedByte (d : List Byte) (e : Engine) :
    d.foldl Engine.feedByte e = (inputBits d).foldl Engine.feedBit e := by
  induction d generalizing e with
  | nil => rfl
  | cons b d ih => simp [inputBits, List.foldl_append, Engine.feedByte, ih]

/-- The working key after `bs` has moved left once per bit, whatever the bits (40_toeplitz.md R121). -/
theorem foldl_feedBit_wk (bs : List Bool) (e : Engine) : (bs.foldl Engine.feedBit e).wk = e.wk <<< bs.length := by
  induction bs generalizing e with
  | nil => simp
  | cons b bs ih =>
    rw [List.foldl_cons, ih, feedBit_wk, List.length_cons, ← BitVec.shiftLeft_add, Nat.add_comm]

/-- The XOR of the windows that the bits of `bs` select from the working key `k`. -/
def windowSum (k : BitVec 320) : List Bool → Word
  | [] => 0
  | b :: bs => (if b then k.extractLsb' 288 32 else 0) ^^^ windowSum (k <<< 1) bs

/-- The accumulator after `bs` is what it was, XOR the windows that the bits select (40_toeplitz.md R121). -/
theorem foldl_feedBit_acc (bs : List Bool) (e : Engine) :
    (bs.foldl Engine.feedBit e).acc = e.acc ^^^ windowSum e.wk bs := by
  induction bs generalizing e with
  | nil => simp [windowSum]
  | cons b bs ih =>
    rw [List.foldl_cons, ih, feedBit_acc, feedBit_wk, windowSum, BitVec.xor_assoc]

/-- The hash is the sum of the windows that the input's bits select. -/
theorem toeplitz_eq_windowSum (k : BitVec 320) (d : List Byte) : toeplitz k d = windowSum k (inputBits d) := by
  unfold toeplitz
  rw [foldl_feedByte, foldl_feedBit_acc]
  simp

end Sys2Proof.Machine
end

