-- ==== Sys2Proof/Tests/Slice0.lean ====
section
/-! SUPPORT. Tests of single steps, their expected values taken from spec/95_test_vectors.md (T and V rows) and from the rules'
worked examples, and, for every statement with hypotheses, a state and operands that meet them. -/

namespace Sys2Proof.Tests

open Sys2Proof Sys2Proof.Machine

-- ## Helpers

/-- The next state, if the outcome is one. -/
def outState (o : Host.Outcome State Fault Refusal) : Option State :=
  match o with
  | .next s => some s
  | _ => none

/-- The fault, if the outcome is one. -/
def outFault (o : Host.Outcome State Fault Refusal) : Option Fault :=
  match o with
  | .fault f => some f
  | _ => none

/-- An outcome whose next state passes a check is a next state, and that state passes it. -/
theorem exists_next {o : Host.Outcome State Fault Refusal} (p : State → Bool) (h : (outState o).any p = true) :
    ∃ t, o = .next t ∧ p t = true := by
  cases o with
  | next s => exact ⟨s, rfl, h⟩
  | fault => cases h
  | refused => cases h

/-- A machine in reset with one access waiting. -/
def waiting (a : Access) : State := { State.reset with bus := [.access a] }

/-- The key of spec/95_test_vectors.md. -/
def msKey : Vector Word 10 :=
  #v[0x6d5a56da, 0x255b0ec2, 0x4167253d, 0x43a38fb0, 0xd0ca2bcb, 0xae7b30b4, 0x77cb2da3, 0x8030f20c, 0x6a42b73b, 0xbeac01fa]

/-- Reset, then the key loaded. -/
def keyed : State := { State.reset with key := msKey, keyLoaded := 0b1111111111 }

/-- The addresses and ports of T2. -/
def flow : State :=
  { keyed with srcIp := 0x420995BB, dstIp := 0xA18E6450, srcPort := 0x0AEA, dstPort := 0x06E6 }

/-- A table for 24 queues in place (V23), and the hash of T1. -/
def tabled : State :=
  { State.reset with reta := retaTable 24, queues := 24, retaValid := true, hash := 0x323e8fc2 }

/-- The machine with a `CMD` write waiting. -/
def issuing (s : State) (v : Word) : State := { s with bus := [.access (.write 0x000 4 v)] }

-- ## Well-formedness: each check refuses an ill-formed term

theorem test_illegal_with_nop_word_is_ill_formed : (Instr.illegal 0 0x00).wellFormed = false := by decide

theorem test_illegal_with_queue_of_word_is_ill_formed : (Instr.illegal 0 0x05).wellFormed = false := by decide

theorem test_illegal_opcode_is_well_formed : (Instr.illegal 0 0x06).wellFormed = true := by decide

theorem test_reserved_bit_is_well_formed : (Instr.illegal 1 0x00).wellFormed = true := by decide

-- ## Decoding, each word bit by bit from R91 (pattern RSVD 31:8, OP 7:0)

theorem test_decode_nop : decode 0b000000000000000000000000_00000000#32 = .nop := by decide

theorem test_decode_hash : decode 0b000000000000000000000000_00000001#32 = .hash := by decide

theorem test_decode_encode_pair : decode 0b000000000000000000000000_00000010#32 = .encodePair := by decide

theorem test_decode_encode_tuple : decode 0b000000000000000000000000_00000011#32 = .encodeTuple := by decide

theorem test_decode_build_reta : decode 0b000000000000000000000000_00000100#32 = .buildReta := by decide

theorem test_decode_queue_of : decode 0b000000000000000000000000_00000101#32 = .queueOf := by decide

theorem test_decode_illegal_opcode : decode 0b000000000000000000000000_00000110#32 = .illegal 0 0x06 := by decide

theorem test_decode_reserved_bit : decode 0b000000000000000000000001_00000001#32 = .illegal 1 0x01 := by decide

theorem test_table_word_out_of_range : decodeTableWord 40 0x100000001 = none := by decide

-- ## One step of each command

/-- V31: NOP clears the code of a failed HASH. -/
theorem test_nop_clears_err :
    (outState (step (issuing { keyed with err := 1 } 0))).map (fun t => (t.err, t.cmd)) = some (0, 0) := by decide

/-- T1. -/
theorem test_hash_address_pair :
    (outState (exec .hash { keyed with data := #v[0x420995BB, 0xA18E6450, 0, 0, 0, 0, 0, 0, 0, 0], len := 8 })).map
      (fun t => (t.hash, t.err)) = some (0x323e8fc2, 0) := by decide +kernel

/-- V13: 40 bytes of 0xFF. -/
theorem test_hash_full_buffer :
    (outState (exec .hash { keyed with data := Vector.replicate 10 0xFFFFFFFF, len := 40 })).map (·.hash) =
      some 0x24c9cdb6 := by decide +kernel

/-- T1's operands, and V28: `DATA3` is not written. -/
theorem test_encode_pair :
    (outState (exec .encodePair { flow with data := Vector.replicate 10 0xCAFEF00D })).map
      (fun t => (t.data.toList.take 4, t.len)) =
      some ([0x420995BB, 0xA18E6450, 0xCAFEF00D, 0xCAFEF00D], 8) := by decide

/-- T2's operands. -/
theorem test_encode_tuple :
    (outState (exec .encodeTuple flow)).map (fun t => (t.data.toList.take 4, t.len)) =
      some ([0x420995BB, 0xA18E6450, 0x0AEA06E6, 0], 12) := by decide

/-- V23, `CPUS = 24`: slots 16..31. -/
theorem test_build_reta_24 :
    (outState (exec .buildReta { State.reset with cpus := 24 })).map
      (fun t => ((t.reta.toList.extract 16 32).map BitVec.toNat, t.queues, t.retaValid)) =
      some ([19, 18, 17, 16, 23, 22, 21, 20, 3, 2, 1, 0, 7, 6, 5, 4], 24, true) := by decide +kernel

/-- V22: an empty CPU count leaves the table that is there. -/
theorem test_build_reta_zero :
    (outState (exec .buildReta tabled)).map (fun t => (t.err, t.queues, t.retaValid)) = some (2, 24, true) := by
  decide +kernel

/-- V20: slot 66 of the table for 24 CPUs. -/
theorem test_queue_of :
    (outState (exec .queueOf tabled)).map (fun t => (t.queue, t.err)) = some (17, 0) := by decide +kernel

/-- V21: no table yet. -/
theorem test_queue_of_before_build :
    (outState (exec .queueOf State.reset)).map (fun t => (t.queue, t.err)) = some (0, 4) := by decide

/-- V30b: `OP = 0x01` with a reserved bit set. -/
theorem test_illegal_word :
    (outState (step (issuing State.reset 0x00000101))).map (fun t => (t.err, t.cmd, t.hash)) =
      some (5, 0x101, 0) := by decide

/-- The table's word for HASH is the first command to run after reset: no key is loaded, so it reports 3 (R201). -/
theorem test_fetch_word_runs_first :
    (outState (step (State.reset.withFetchWord 32 1))).map (fun t => (t.err, t.cmd, t.bus)) = some (3, 1, []) := by
  decide

-- ## Host accesses and reset

/-- V32b, V32c, V32d, V32e: the access errors. -/
theorem test_access_errors :
    outFault (step (waiting (.read 0x02C 4))) = some .unmappedOffset ∧
    outFault (step (waiting (.write 0x008 1 7))) = some .misalignedOrNotWord ∧
    outFault (step (waiting (.read 0x00A 4))) = some .misalignedOrNotWord ∧
    outFault (step (waiting (.write 0x214 4 1))) = some .readOnlyRegister := by decide

/-- V34: `KEY0`, `KEY3` and `KEY9` written. -/
theorem test_key_loaded_bits :
    statusWord (((State.reset.loadKey 0 7).loadKey 3 7).loadKey 9 7) = 0x02090000 := by decide

/-- V26. -/
theorem test_port_write_is_masked :
    (outState (step (waiting (.write 0x024 4 0x00010AEA)))).map (fun t => regRead t .srcPort) = some 0x00000AEA := by
  decide

/-- P1's last read: the word comes back to the host. -/
theorem test_read_returns_the_hash :
    (outState (step { tabled with bus := [.access (.read 0x00C 4)] })).map (·.returned) = some [0x323e8fc2] := by
  decide

/-- P2's last read: `RETA120` stands at 0x3E0. -/
theorem test_reta_offset : regAt 0x3E0 = some (.reta 120) := by decide

/-- R240: reset clears the registers, and the access it interrupts is not performed. -/
theorem test_reset_event :
    (outState (step { tabled with bus := [.reset (some (.write 0x008 4 9))] })).map
      (fun t => (t.retaValid, t.len, t.hash)) = some (false, 0, 0) := by decide

-- ## Host assembly (R102)

/-- LDDATA of five bytes: two data words, padded, then `LEN`. -/
theorem test_ld_data :
    expandLine (.ldData [1, 2, 3, 4, 5]) =
      some [.write 0x080 4 0x01020304, .write 0x084 4 0x05000000, .write 0x008 4 5] := by decide +kernel

/-- SETIP of P1. -/
theorem test_set_ip :
    expandLine (.setIp 66 9 149 187 161 142 100 80) =
      some [.write 0x01C 4 0x420995BB, .write 0x020 4 0xA18E6450] := by decide

-- ## Witnesses: states and operands that meet the hypotheses of the statements

theorem witness_DecodeOfEncodeIsTheCommand : (Instr.illegal 0xFFFFFF 0xFF).wellFormed = true := by decide

theorem witness_EveryWordHasOneCommand :
    (Instr.illegal 0 0x06).wellFormed = true ∧ encode (.illegal 0 0x06) = 0x00000006 := by decide

theorem witness_IllegalWordReportsFive :
    (issuing tabled 6).bus = .access (.write 0x000 4 6) :: [] ∧ 6 ≤ ((6 : Word).extractLsb' 0 8).toNat ∧
    (0x100 : Word).extractLsb' 8 24 ≠ 0 ∧
    ¬((5 : Word).extractLsb' 8 24 ≠ 0 ∨ 6 ≤ ((5 : Word).extractLsb' 0 8).toNat) := ⟨rfl, by decide, by decide, by decide⟩

theorem witness_StepRunsTheDecodedCommand : (issuing flow 3).bus = .access (.write 0x000 4 3) :: [] := rfl

theorem witness_MnemonicLineRunsItsCommand : Instr.wellFormed .queueOf = true := by decide

theorem witness_TableWordReachesTheDecoder : decodeTableWord 32 5 = some .queueOf := by decide

theorem witness_HostAddressReachesItsOffset : 1023 < 1024 := by decide

theorem witness_EveryRegisterHasOneOffset : regAt 0x3FC = some (.reta 127) := by decide

theorem witness_MisalignedOrNarrowAccessFaults :
    (waiting (.read 0x003 4)).bus = .access (.read 0x003 4) :: [] ∧
    (Access.read 0x003 4).off.toNat % 4 ≠ 0 ∧ (Access.write 0x008 1 0).size ≠ 4 ∧ (Access.write 0x008 8 0).size ≠ 4 := by
  decide

theorem witness_UnmappedAndReadOnlyAccessesFault :
    (0x02C : BitVec 10).toNat % 4 = 0 ∧ regAt 0x02C = none ∧ regAt 0x1FC = none ∧
    (0x200 : BitVec 10).toNat % 4 = 0 ∧ 0x200 ≤ (0x200 : BitVec 10).toNat ∧ 0x200 ≤ (0x3FC : BitVec 10).toNat := by decide

theorem witness_AccessCompletesExactlyWhenPerformed :
    (waiting (.read 0x3FC 4)).bus = .access (.read 0x3FC 4) :: [] := rfl

theorem witness_RegistersAreTheWholeState (r : Reg) :
    regRead { tabled with bus := [.reset none] } r = regRead tabled r := by
  cases r <;> rfl

theorem witness_WriteStoresTheWord :
    Reg.data 9 ≠ .cmd ∧ readOnly (.data 9) = false ∧ Reg.key 0 ≠ .cmd ∧ readOnly (.key 0) = false := by decide

theorem witness_CmdHoldsTheLastWordWritten :
    (∃ t, step (issuing tabled 0xFFFFFFFF) = .next t ∧
      ((issuing tabled 0xFFFFFFFF).nextEvent (Event.isWrite .cmd 0xFFFFFFFF)) = true) ∧
    (∃ t, step { tabled with bus := [.reset none] } = .next t ∧
      State.nextEvent { tabled with bus := [.reset none] } Event.isReset = true) ∧
    ∃ t, step tabled = .next t ∧ (tabled.nextEvent Event.isReset = false ∧ tabled.nextEvent (Event.writes .cmd) = false) :=
  ⟨exists_next (fun _ => (issuing tabled 0xFFFFFFFF).nextEvent (Event.isWrite .cmd 0xFFFFFFFF)) (by decide),
    exists_next (fun _ => State.nextEvent { tabled with bus := [.reset none] } Event.isReset) (by decide),
    tabled, rfl, rfl, rfl⟩

theorem witness_ReadSeesTheLatestWrite :
    (Reg.srcPort ≠ .cmd ∧ ∃ t, regWrite .srcPort 0x00010AEA tabled = .next t) ∧
    Reg.len ≠ .cmd ∧ (∃ t, regWrite .len 41 tabled = .next t) ∧ (∀ w, Reg.len ≠ .key w) ∧ Reg.hash ≠ .len ∧
    Reg.hash ≠ .status := by
  refine ⟨⟨by decide, _, rfl⟩, by decide, ⟨_, rfl⟩, ?_, by decide, by decide⟩
  intro w h
  cases h

theorem witness_PortWriteIsMasked : ∃ t, exec .encodeTuple flow = .next t := ⟨_, rfl⟩

theorem witness_KeyValueIsBigEndian : 39 < 40 ∧ 3 < 4 := by decide

theorem witness_ResetEventClearsTheRegisters :
    State.bus { tabled with bus := [.reset (some (.read 0x00C 4))] } = .reset (some (.read 0x00C 4)) :: [] := rfl

theorem witness_NopReportsSuccessOnly :
    (0x00000100 : Word).extractLsb' 0 8 = 0 ∧ (0x00000100 : Word).extractLsb' 8 24 ≠ 0 := by decide

theorem witness_OutcomeCodeOfEveryCommand :
    (issuing { keyed with len := 41 } 1).bus = .access (.write 0x000 4 1) :: [] := rfl

theorem witness_FailedCommandChangesOnlyErr :
    (issuing tabled 4).bus = .access (.write 0x000 4 4) :: [] ∧
    ∃ t, step (issuing tabled 4) = .next t ∧ decide (t.err ≠ 0) = true :=
  ⟨rfl, exists_next (fun t => decide (t.err ≠ 0)) (by decide)⟩

theorem witness_NoCommandReadsCmdOrTheBus : ∃ t, exec .queueOf tabled = .next t ∧ (t.err == 0) = true :=
  exists_next (fun t => t.err == 0) (by decide)

theorem witness_CommandsAreIdempotent : ∃ t, exec .encodePair flow = .next t := ⟨_, rfl⟩

theorem witness_HashCommand :
    State.reset.keyLoaded ≠ 0b1111111111 ∧ keyed.keyLoaded = 0b1111111111 ∧
    40 < (State.len { keyed with len := 41 }).toNat ∧ (State.len { keyed with len := 40 }).toNat ≤ 40 ∧ keyed.len = 0 ∧
    ∃ t, exec .hash State.reset = .next t ∧ (t.err == 3) = true :=
  ⟨by decide, by decide, by decide, by decide, by decide, exists_next (fun t => t.err == 3) (by decide)⟩

theorem witness_ToeplitzIsTheXorOfWindows : 31 < 32 := by decide

theorem witness_WindowsPastTheKeyAreZeroFilled :
    (288 ≤ 288 ∧ 288 < 320) ∧ (288 ≤ 319 ∧ 319 < 320) ∧
    State.keyLoaded { keyed with len := 40 } = 0b1111111111 ∧ (State.len { keyed with len := 40 }).toNat ≤ 40 := by decide

theorem witness_ToeplitzLaws : ([0xFF, 0x01] : List Byte).length = ([0x00, 0x80] : List Byte).length := by decide

theorem witness_HashIsPureAndDeterministic :
    (∃ t, exec .hash keyed = .next t ∧ (t.err == 0) = true) ∧ keyed.keyLoaded = 0b1111111111 ∧
    State.keyLoaded { keyed with data := Vector.replicate 10 1, hash := 5 } = 0b1111111111 ∧
    keyValue { keyed with data := Vector.replicate 10 1, hash := 5 } = keyValue keyed ∧ keyed.len.toNat ≤ 40 ∧
    ∀ i < keyed.len.toNat, dataByte { keyed with data := Vector.replicate 10 1, hash := 5 } i = dataByte keyed i :=
  ⟨exists_next (fun t => t.err == 0) (by decide), by decide, by decide, rfl, by decide, fun _ h => absurd h (Nat.not_lt_zero _)⟩

theorem witness_HashRunsOnAPartlyRewrittenKey :
    State.keyLoaded { keyed with len := 40 } = 0b1111111111 ∧ (State.len { keyed with len := 40 }).toNat ≤ 40 := by decide

/-- The 8 bytes of T1 in the buffer, and the same with every later data word other. -/
theorem witness_EncodePairCommand :
    let data : Vector Word 10 := #v[0x420995BB, 0xA18E6450, 0, 0, 0, 0, 0, 0, 0, 0]
    let other : Vector Word 10 := #v[0x420995BB, 0xA18E6450, 1, 2, 3, 4, 5, 6, 7, 8]
    State.len { keyed with data := data, len := 8 } = 8 ∧ other[0] = data[0] ∧ other[1] = data[1] ∧ other ≠ data := by
  decide

theorem witness_EncodeTupleCommand : (0x00010AEA : Word).toNat % 65536 = (0x00000AEA : Word).toNat % 65536 := by decide

theorem witness_EncodeThenHashHashesTheFlow : flow.keyLoaded = 0b1111111111 := by decide

theorem witness_BuildRetaCommand :
    tabled.cpus = 0 ∧ State.cpus { State.reset with cpus := 1 } ≠ 0 ∧
    State.cpus { State.reset with cpus := 0xFFFFFFFF } ≠ 0 := by decide

theorem witness_RetaEntryReversesBlocksOfFour : (127 < 128 ∧ 16 ≤ 16) ∧ 31 < 32 ∧ 3 < 4 := by decide

theorem witness_BuildRetaRefinesTheThreeSteps :
    State.cpus { State.reset with cpus := 24 } ≠ 0 ∧ 16 ≤ 16 ∧ 31 < 32 ∧ 3 < 4 := by decide

theorem witness_QueueOfCommand : State.reset.retaValid = false ∧ tabled.retaValid = true := by decide

/-- The table of `tabled` satisfies the invariant. -/
theorem tabled_inv : tabled.Inv where
  err_legal := by decide
  key_unwritten := by decide
  no_table := by decide
  table := fun _ => ⟨by decide, by decide +kernel⟩

theorem witness_RetaLaws :
    (State.reta { tabled with hash := 0x42 } = tabled.reta ∧ tabled.retaValid = true ∧
      (State.hash { tabled with hash := 0x42 }).extractLsb' 0 7 = tabled.hash.extractLsb' 0 7 ∧
      (∃ t, exec .queueOf tabled = .next t ∧ (t.err == 0) = true) ∧
      ∃ t, exec .queueOf { tabled with hash := 0x42 } = .next t ∧ (t.err == 0) = true) ∧
    (1 ≤ (1 : Word).toNat ∧ (1 : Word).toNat ≤ 16 ∧ 31 < 32 ∧ 15 < 16) ∧ tabled.Inv ∧
    max 16 (1 : Word).toNat = max 16 (16 : Word).toNat ∧ 128 ≤ (128 : Word).toNat ∧ 128 ≤ (0xFFFFFFFF : Word).toNat :=
  ⟨⟨rfl, rfl, by decide, exists_next (fun t => t.err == 0) (by decide), exists_next (fun t => t.err == 0) (by decide)⟩,
    by decide, tabled_inv, by decide, by decide, by decide⟩

theorem witness_CommandsLeaveOtherRegisters :
    (∃ t, exec .queueOf tabled = .next t) ∧ mayWrite .queueOf .hash = false ∧ Instr.queueOf ≠ .buildReta ∧
    tabled.retaValid = true := ⟨⟨_, rfl⟩, rfl, by decide, rfl⟩

/-- Two states with the same operands of a command, for each command that has any, on which it succeeds. -/
theorem witness_CommandsReadOnlyTheirOperands :
    (SameOperands .hash keyed { keyed with data := Vector.replicate 10 1, srcIp := 7 } ∧
      (∃ t, exec .hash keyed = .next t ∧ (t.err == 0) = true) ∧ mayWrite .hash .hash = true) ∧
    (SameOperands .encodePair flow { flow with srcPort := 9, len := 3 } ∧ (∃ t, exec .encodePair flow = .next t) ∧
      mayWrite .encodePair (.data 1) = true) ∧
    (SameOperands .encodeTuple flow { flow with keyLoaded := 0, hash := 3 } ∧ (∃ t, exec .encodeTuple flow = .next t) ∧
      mayWrite .encodeTuple (.data 2) = true) ∧
    (SameOperands .buildReta { flow with cpus := 24 } { tabled with cpus := 24 } ∧
      (∃ t, exec .buildReta { flow with cpus := 24 } = .next t ∧ (t.err == 0) = true) ∧
      mayWrite .buildReta (.reta 127) = true) ∧
    (SameOperands .queueOf tabled { tabled with queues := 16, key := msKey } ∧
      (∃ t, exec .queueOf tabled = .next t ∧ (t.err == 0) = true) ∧ mayWrite .queueOf .queue = true) ∧
    Reg.hash ≠ .status ∧ Reg.queue ≠ .status :=
  ⟨⟨⟨rfl, rfl, rfl, fun _ h => absurd h (Nat.not_lt_zero _)⟩, exists_next (fun t => t.err == 0) (by decide), rfl⟩,
    ⟨⟨rfl, rfl⟩, ⟨_, rfl⟩, rfl⟩, ⟨⟨rfl, rfl, rfl, rfl⟩, ⟨_, rfl⟩, rfl⟩,
    ⟨rfl, exists_next (fun t => t.err == 0) (by decide), rfl⟩,
    ⟨⟨rfl, rfl, rfl⟩, exists_next (fun t => t.err == 0) (by decide), rfl⟩, by decide, by decide⟩

/-- A step on each register's writer that changes the register, and none of them a reset. -/
theorem witness_RegistersChangeOnlyByTheirWriters :
    (outState (step (issuing State.reset 6))).any (·.cmd != 0) ∧
    (outState (step (waiting (.write 0x008 4 41)))).any (·.len != 0) ∧
    (outState (step (issuing flow 2))).any (fun t => t.len != 0 && t.data[1] != 0) ∧
    (outState (step (issuing flow 3))).any (fun t => t.len != 0 && t.data[2] != 0) ∧
    (outState (step (waiting (.write 0x00C 4 1)))).any (·.hash != 0) ∧
    (outState (step (issuing tabled 5))).any (·.queue != 0) ∧
    (outState (step (issuing { tabled with cpus := 1 } 4))).any (·.queues != 24) ∧
    (outState (step (waiting (.write 0x014 4 1)))).any (·.cpus != 0) ∧
    (outState (step (waiting (.write 0x01C 4 1)))).any (·.srcIp != 0) ∧
    (outState (step (waiting (.write 0x020 4 1)))).any (·.dstIp != 0) ∧
    (outState (step (waiting (.write 0x024 4 1)))).any (·.srcPort != 0) ∧
    (outState (step (waiting (.write 0x028 4 1)))).any (·.dstPort != 0) ∧
    (outState (step (waiting (.write 0x064 4 1)))).any (·.key[9] != 0) ∧
    (outState (step (waiting (.write 0x0A4 4 1)))).any (·.data[9] != 0) ∧
    (waiting (.write 0x0A4 4 1)).nextEvent Event.isReset = false := by decide +kernel

theorem witness_ErrChangesOnlyByCommands :
    (∃ t, step { tabled with bus := [.reset none] } = .next t) ∧
    State.nextEvent { tabled with bus := [.reset none] } Event.isReset = true ∧
    (∃ t, step (waiting (.write 0x040 4 1)) = .next t ∧ (t.err == 0) = true) ∧
    (waiting (.write 0x040 4 1)).nextEvent Event.isReset = false ∧
    (waiting (.write 0x040 4 1)).nextEvent (Event.writes .cmd) = false :=
  ⟨⟨_, rfl⟩, by decide, exists_next (fun t => t.err == 0) (by decide), by decide, by decide⟩

theorem witness_RetaValidAfterAStep :
    ∃ t, step (issuing { State.reset with cpus := 16 } 4) = .next t ∧ t.retaValid = true :=
  exists_next (·.retaValid) (by decide)

theorem witness_KeyLoadedAfterAStep :
    (∃ t, step (waiting (.write 0x064 4 0)) = .next t ∧ t.keyLoaded.getLsbD 9 = true) ∧
    State.reset.keyLoaded.getLsbD 9 = false :=
  ⟨exists_next (·.keyLoaded.getLsbD 9) (by decide), by decide⟩

theorem witness_StepKeepsTheInvariant : tabled.Inv ∧ ∃ t, step tabled = .next t := ⟨tabled_inv, tabled, rfl⟩

theorem witness_PerformedEventsNeverStopARun :
    ∀ e ∈ ([.access (.write 0x000 4 5), .reset none, .access (.read 0x3FC 4)] : List Event), e.performs = true := by decide

theorem witness_RunWithAnAccessErrorNeverEndsWell : ∃ t, RunsTo 1 (issuing tabled 5) t := by
  obtain ⟨t, ht, -⟩ := exists_next (o := step (issuing tabled 5)) (fun _ => true) (by decide)
  refine ⟨t, ?_⟩
  unfold RunsTo
  simp only [Host.Core.run]
  rw [show Sys2Proof.core.step (issuing tabled 5) = .next t from ht]

theorem witness_ReadingHostDisturbsNobody :
    Interleaves [.access (.write 0x000 4 5)] [.access (.read 0x010 4)]
      ([.access (.read 0x010 4), .access (.write 0x000 4 5)] : List Event) ∧
    (∀ e ∈ ([.access (.read 0x010 4)] : List Event), e.isPerformedRead = true) ∧ ∃ t, RunsTo 1 (issuing tabled 5) t :=
  ⟨.second (.first .done), by decide, witness_RunWithAnAccessErrorNeverEndsWell⟩

theorem witness_KeyLoadedOverARun : ∃ t, RunsTo 1 (issuing tabled 5) t := witness_RunWithAnAccessErrorNeverEndsWell

/-- The ten key writes, last word first. -/
def keyWrites : List Access := (List.finRange 10).reverse.map fun w => asmWrite (.key w) 1

theorem witness_KeyWritesInAnyOrderEnableHash :
    (∀ a ∈ keyWrites, a.performs = true) ∧ ∀ w : Fin 10, ∃ v, Access.write (regOffset (.key w)) 4 v ∈ keyWrites := by
  refine ⟨by decide +kernel, fun w => ⟨1, ?_⟩⟩
  exact List.mem_map.mpr ⟨w, by simp, rfl⟩

theorem witness_LdKeyLoadsTheKey : ∃ as, expandLine (.ldKey 1) = some as := ⟨_, rfl⟩

theorem witness_LdDataLoadsTheBytes :
    (List.replicate 40 (0xFF : Byte)).length ≤ 40 ∧ 40 < (List.replicate 41 (0xFF : Byte)).length := by decide

theorem witness_SetIpAndSetPortStoreTheFlow :
    (∃ as, expandLine (.setIp 66 9 149 187 161 142 100 80) = some as) ∧
    ∃ ps, expandLine (.setPort 0x00010AEA 1766) = some ps := ⟨⟨_, rfl⟩, ⟨_, rfl⟩⟩

theorem witness_LookupSteersTheFlow :
    (∃ as, expandLine .lookup = some as) ∧
    State.keyLoaded { flow with reta := retaTable 16, queues := 16, retaValid := true } = 0b1111111111 ∧
    State.retaValid { flow with reta := retaTable 16, queues := 16, retaValid := true } = true := ⟨⟨_, rfl⟩, rfl, rfl⟩

end Sys2Proof.Tests
end

section
/-! SUPPORT. What the register state keeps: which fields no command writes, how one host write changes each status flag,
and which event stands first on the bus. -/

namespace Sys2Proof.Machine

-- ## Reset and the ports

/-- Every register reads 0 in the reset state (10_state.md R40). -/
@[simp] theorem regRead_reset (r : Reg) : regRead State.reset r = 0 := by
  cases r with
  | key w => exact Vector.getElem_replicate w.isLt
  | data w => exact Vector.getElem_replicate w.isLt
  | reta i =>
    have hentry : State.reset.reta[i] = 0 := Vector.getElem_replicate i.isLt
    simp [regRead, hentry]
  | _ => rfl

/-- The low half of a written word, read back zero-extended (10_state.md R37). -/
theorem port_readback_toNat (v : Word) : ((v.extractLsb' 0 16).setWidth 32).toNat = v.toNat % 65536 := by
  simp only [BitVec.toNat_setWidth, BitVec.extractLsb'_toNat, Nat.shiftRight_zero]
  omega

-- ## Commands

/-- The frame of every command (30_encoding.md R93): outside the fields that some command writes, the next state is the
state before. -/
theorem exec_frame {i : Instr} {s t : State} (h : exec i s = .next t) :
    t = { s with
      err := t.err, retaValid := t.retaValid, len := t.len, hash := t.hash, queue := t.queue, queues := t.queues,
      data := t.data, reta := t.reta } := by
  cases i with
  | nop => cases h; rfl
  | hash => obtain ⟨-, rfl⟩ | ⟨-, -, rfl⟩ | ⟨-, -, rfl⟩ := execHash_next h <;> rfl
  | encodePair => cases h; rfl
  | encodeTuple => cases h; rfl
  | buildReta => obtain ⟨-, rfl⟩ | ⟨-, rfl⟩ := execBuildReta_next h <;> rfl
  | queueOf => obtain ⟨-, rfl⟩ | ⟨-, rfl⟩ := execQueueOf_next h <;> rfl
  | illegal => cases h; rfl

theorem exec_srcPort {i : Instr} {s t : State} (h : exec i s = .next t) : t.srcPort = s.srcPort :=
  (congrArg State.srcPort (exec_frame h) :)

theorem exec_dstPort {i : Instr} {s t : State} (h : exec i s = .next t) : t.dstPort = s.dstPort :=
  (congrArg State.dstPort (exec_frame h) :)

theorem exec_keyLoaded {i : Instr} {s t : State} (h : exec i s = .next t) : t.keyLoaded = s.keyLoaded :=
  (congrArg State.keyLoaded (exec_frame h) :)

/-- A successful BUILD_RETA sets `RETA_VALID`, and no other end of a command writes it (10_state.md R26). -/
theorem exec_retaValid {i : Instr} {s t : State} (h : exec i s = .next t) :
    t.retaValid = if i == .buildReta && s.cpus != 0 then true else s.retaValid := by
  cases i with
  | nop => cases h; rfl
  | hash => obtain ⟨-, rfl⟩ | ⟨-, -, rfl⟩ | ⟨-, -, rfl⟩ := execHash_next h <;> rfl
  | encodePair => cases h; rfl
  | encodeTuple => cases h; rfl
  | buildReta =>
    obtain ⟨hc, rfl⟩ | ⟨hc, rfl⟩ := execBuildReta_next h
    · simp [hc]
    · exact (if_pos (bne_iff_ne.mpr hc)).symm
  | queueOf => obtain ⟨-, rfl⟩ | ⟨-, rfl⟩ := execQueueOf_next h <;> rfl
  | illegal => cases h; rfl

/-- QUEUE_OF succeeds exactly when there is a table (42_reta.md R163). -/
theorem exec_queueOf_succeeds_iff (s : State) :
    (∃ t, exec .queueOf s = .next t ∧ t.err = 0) ↔ s.retaValid = true := by
  constructor
  · rintro ⟨t, h, herr⟩
    obtain ⟨-, rfl⟩ | ⟨hv, -⟩ := execQueueOf_next h
    · cases herr
    · exact hv
  · intro hv
    exact ⟨(s.setQueue s.reta[retaSlot s.hash]).setErr 0, by simp [exec, execQueueOf, hv], rfl⟩

/-- A key word not written since reset: the key is not fully loaded (10_state.md R27). -/
theorem keyFullyLoaded_of_bit_clear {s : State} {w : Fin 10} (h : s.keyLoaded.getLsbD w = false) :
    keyFullyLoaded s = false := by
  rw [← Bool.not_eq_true, keyFullyLoaded_iff]
  intro hall
  have hset : ∀ w : Fin 10, (0b1111111111#10).getLsbD w = true := by decide
  rw [hall, hset w] at h
  cases h

/-- HASH refuses a key that is not fully loaded before anything else (40_toeplitz.md R120, 60_exceptions.md R204). -/
theorem exec_hash_of_key_not_loaded {s : State} (h : keyFullyLoaded s = false) :
    exec .hash s = .next { s with err := 3 } := by
  simp only [exec, execHash, h, Bool.not_false, if_true]
  rfl

-- ## The command word

/-- The decoder loses no bit of the word (30_encoding.md R92, R95). -/
theorem encode_decode (v : Word) : encode (decode v) = v := by
  by_cases hr : rsvdField v = 0#24
  · have hword : ∀ k : Nat, (opField v).toNat = k → v = (0#24 ++ BitVec.ofNat 8 k : Word) := by
      intro k hk
      rw [← hk, BitVec.ofNat_toNat, BitVec.setWidth_eq, ← hr, join_fields]
    rw [decode, if_neg (not_not_intro hr)]
    split
    case h_7 => exact join_fields v
    all_goals next hk => exact (hword _ hk).symm
  · rw [decode_of_rsvd hr]
    exact join_fields v

/-- The one word of BUILD_RETA (30_encoding.md R91). -/
theorem decode_eq_buildReta_iff (v : Word) : decode v = .buildReta ↔ v = 4 := by
  constructor
  · intro h
    rw [← encode_decode v, h]
    rfl
  · rintro rfl
    rfl

-- ## Host writes

/-- A host write changes `RETA_VALID` only as the command word of a BUILD_RETA that succeeds (10_state.md R26). -/
theorem regWrite_retaValid {r : Reg} {v : Word} {s t : State} (h : regWrite r v s = .next t) :
    t.retaValid = if r == .cmd && v == 4 && s.cpus != 0 then true else s.retaValid := by
  cases r with
  | cmd =>
    have hx : exec (decode v) (s.setCmd v) = .next t := h
    have hword : (decode v == .buildReta) = (v == 4) := by
      rw [Bool.eq_iff_iff, beq_iff_eq, beq_iff_eq, decode_eq_buildReta_iff]
    rw [exec_retaValid hx, hword]
    rfl
  | _ => cases h <;> rfl

/-- A host write to `KEYw` sets `KEY_LOADED[w]` and no other bit of it (10_state.md R27). -/
theorem loadKey_keyLoaded_getLsbD (s : State) (w w' : Fin 10) (v : Word) :
    (s.loadKey w v).keyLoaded.getLsbD w' = if w = w' then true else s.keyLoaded.getLsbD w' := by
  rw [State.loadKey_keyLoaded, BitVec.getLsbD_or, BitVec.getLsbD_twoPow]
  by_cases hw : w = w' <;> simp [hw, Fin.val_inj]

/-- A host write changes a bit of `KEY_LOADED` only as a write of that bit's key word (10_state.md R27). -/
theorem regWrite_keyLoaded_getLsbD {r : Reg} {v : Word} {s t : State} (h : regWrite r v s = .next t) (w : Fin 10) :
    t.keyLoaded.getLsbD w = if r = .key w then true else s.keyLoaded.getLsbD w := by
  cases r with
  | cmd =>
    have hx : exec (decode v) (s.setCmd v) = .next t := h
    rw [exec_keyLoaded hx]
    rfl
  | key w' =>
    cases h
    simpa using loadKey_keyLoaded_getLsbD s w' w v
  | _ => cases h <;> rfl

-- ## The next event

/-- With nothing waiting, no event has any property. -/
theorem nextEvent_of_bus_nil {s : State} (h : s.bus = []) (p : Event → Bool) : s.nextEvent p = false := by
  simp [State.nextEvent, h]

/-- The next event is the first one waiting (20_memory.md R71). -/
theorem nextEvent_of_bus_cons {s : State} {e : Event} {rest : List Event} (h : s.bus = e :: rest) (p : Event → Bool) :
    s.nextEvent p = p e := by
  simp [State.nextEvent, h]

@[simp] theorem isReset_access (a : Access) : Event.isReset (.access a) = false := rfl

theorem isWrite_read (r : Reg) (v : Word) (off : BitVec 10) (size : Nat) :
    Event.isWrite r v (.access (.read off size)) = false := by
  simp [Event.isWrite]

@[simp] theorem regOffset_inj {r r' : Reg} : regOffset r = regOffset r' ↔ r = r' :=
  ⟨regOffset_injective, congrArg regOffset⟩

@[simp] theorem writes_write (r r' : Reg) (v : Word) :
    Event.writes r (.access (.write (regOffset r') 4 v)) = decide (r' = r) := by
  rw [Bool.eq_iff_iff]
  simp [Event.writes]

@[simp] theorem isWrite_write (r r' : Reg) (v v' : Word) :
    Event.isWrite r v (.access (.write (regOffset r') 4 v')) = (r' == r && v' == v) := by
  rw [Bool.eq_iff_iff]
  simp [Event.isWrite]

/-- A mapped offset is its register's own (20_memory.md R62). -/
theorem regOffset_of_regAt {off : BitVec 10} {r : Reg} (h : regAt off = some r) : off = regOffset r := by
  unfold regAt at h
  split at h
  case h_12 => exact regOffset_of_arrayAt h
  all_goals
    next hoff =>
      cases h
      exact BitVec.eq_of_toNat_eq hoff

/-- A write that the block performs is a word write to a register (20_memory.md R63, R65). -/
theorem write_eq_of_mapped {off : BitVec 10} {size : Nat} {v : Word} {r : Reg} (hr : regAt off = some r)
    (ha : (Access.write off size v).alignedWord = true) : Access.write off size v = .write (regOffset r) 4 v := by
  obtain ⟨rfl, -⟩ : size = 4 ∧ _ := by simpa using ha
  rw [regOffset_of_regAt hr]

/-- A step by its next event: a reset sets every register, an event that writes no register keeps them all, and any other
event is a word write that the block performs. -/
theorem step_by_event {s t : State} (h : step s = .next t) :
    (s.nextEvent Event.isReset = true ∧ t = { State.reset with bus := t.bus, returned := t.returned }) ∨
    (s.nextEvent Event.isReset = false ∧ (∀ r, s.nextEvent (Event.writes r) = false) ∧
      (∀ r v, s.nextEvent (Event.isWrite r v) = false) ∧ t = { s with bus := t.bus, returned := t.returned }) ∨
    ∃ r v rest, s.bus = .access (.write (regOffset r) 4 v) :: rest ∧ regWrite r v (s.setBus rest) = .next t := by
  obtain ⟨hb, rfl⟩ | ⟨a, rest, hb, rfl⟩ | ⟨off, size, rest, r, hb, -, rfl⟩ | ⟨off, size, v, rest, r, hb, hr, ha, hw⟩ :=
    step_next h
  · exact .inr (.inl ⟨nextEvent_of_bus_nil hb _, fun _ => nextEvent_of_bus_nil hb _,
      fun _ _ => nextEvent_of_bus_nil hb _, rfl⟩)
  · exact .inl ⟨nextEvent_of_bus_cons hb _, rfl⟩
  · exact .inr (.inl ⟨nextEvent_of_bus_cons hb _, fun _ => nextEvent_of_bus_cons hb _,
      fun _ _ => by rw [nextEvent_of_bus_cons hb, isWrite_read], rfl⟩)
  · exact .inr (.inr ⟨r, v, rest, by rw [hb, write_eq_of_mapped hr ha], hw⟩)

-- ## The statements

/-- Settles O20. -/
theorem portWriteIsMasked : Obligations.PortWriteIsMasked :=
  ⟨fun _ v => ⟨⟨_, rfl, port_readback_toNat v⟩, ⟨_, rfl, port_readback_toNat v⟩⟩,
    fun s => ⟨_, execEncodeTuple_eq s, by simp⟩,
    fun _ _ _ h => ⟨exec_srcPort h, exec_dstPort h⟩, rfl, rfl⟩

/-- Settles O48, by the inversion of a step: a reset, an event that keeps the flag, or a host write. -/
theorem retaValidAfterAStep : Obligations.RetaValidAfterAStep := by
  refine ⟨fun s t h => ?_, exec_queueOf_succeeds_iff⟩
  obtain ⟨hreset, ht⟩ | ⟨hreset, -, hwrite, ht⟩ | ⟨r, v, rest, hb, hw⟩ := step_by_event h
  · rw [hreset, ht]
    rfl
  · rw [hreset, hwrite, ht]
    rfl
  · rw [nextEvent_of_bus_cons hb, nextEvent_of_bus_cons hb, isWrite_write]
    exact (regWrite_retaValid hw :)

/-- Settles O49, by the inversion of a step as for O48, and by HASH's first check. -/
theorem keyLoadedAfterAStep : Obligations.KeyLoadedAfterAStep := by
  refine ⟨fun s t h w => ?_, fun s w hbit => exec_hash_of_key_not_loaded (keyFullyLoaded_of_bit_clear hbit)⟩
  obtain ⟨hreset, ht⟩ | ⟨hreset, hwrites, -, ht⟩ | ⟨r, v, rest, hb, hw⟩ := step_by_event h
  · rw [hreset, ht]
    exact BitVec.getLsbD_zero
  · rw [hreset, hwrites, ht]
    rfl
  · simpa [nextEvent_of_bus_cons hb] using regWrite_keyLoaded_getLsbD hw w

/-- Settles O22. -/
theorem resetLeavesEveryRegisterZero : Obligations.ResetLeavesEveryRegisterZero :=
  ⟨regRead_reset, rfl, rfl, rfl, regRead_reset .status⟩

end Sys2Proof.Machine
end

section
/-! SUPPORT. Host writes (20_memory.md R67): which write a step performs, and that every write but one to `CMD` is
idempotent. -/

namespace Sys2Proof.Machine

/-- A step on a waiting word write at a register's offset is that register's write (20_memory.md R67, R71). -/
theorem step_write (s : State) (r : Reg) (v : Word) (rest : List Event) :
    step { s with bus := .access (.write (regOffset r) 4 v) :: rest } = regWrite r v { s with bus := rest } :=
  hostAccess_write r v { s with bus := rest }

/-- Storing a key word again stores no other word and sets no other bit of `KEY_LOADED`. -/
@[simp] theorem loadKey_loadKey (s : State) (w : Fin 10) (v : Word) : (s.loadKey w v).loadKey w v = s.loadKey w v := by
  simp [State.loadKey, BitVec.or_assoc]

@[simp] theorem setData_setData (s : State) (w : Fin 10) (v : Word) : (s.setData w v).setData w v = s.setData w v := by
  simp [State.setData]

/-- A write to a read-write register other than `CMD` is performed in every state (20_memory.md R65, R67). -/
theorem regWrite_performed {r : Reg} (hcmd : r ≠ .cmd) (hro : readOnly r = false) (v : Word) (s : State) :
    ∃ t, regWrite r v s = .next t := by
  cases r with
  | cmd => exact absurd rfl hcmd
  | status | queue | queues | reta => cases hro
  | _ => exact ⟨_, rfl⟩

/-- Writing the same word again to a register other than `CMD` changes nothing more (20_memory.md R67). -/
theorem regWrite_again {r : Reg} {v : Word} {s t : State} (hcmd : r ≠ .cmd) (h : regWrite r v s = .next t) :
    regWrite r v t = .next t := by
  cases r with
  | cmd => exact absurd rfl hcmd
  | key w =>
    cases h
    exact congrArg Host.Outcome.next (loadKey_loadKey s w v)
  | data w =>
    cases h
    exact congrArg Host.Outcome.next (setData_setData s w v)
  | status | queue | queues | reta => cases h
  | _ => cases h; rfl

/-- Settles O17: a step performs the write, whose update is read off `regWrite`, and the write again changes nothing
more. -/
theorem writeStoresTheWord : Obligations.WriteStoresTheWord := by
  refine ⟨fun s v rest => ?_, fun s r v hcmd hro => ?_⟩
  · simp only [step_write]
    exact ⟨rfl, fun _ => rfl, rfl, rfl, rfl, rfl, rfl, rfl, rfl, fun _ => rfl⟩
  · obtain ⟨t, ht⟩ := regWrite_performed hcmd hro v s
    exact ⟨t, ht, regWrite_again hcmd ht⟩

end Sys2Proof.Machine
end

section
/-! SUPPORT. HASH (40_toeplitz.md): each end of the command as an equation, what the command leaves alone, and the hash of
an input with one bit set. -/

namespace Sys2Proof.Machine

-- ## The ends of the command

/-- With the key loaded, a length above 40 bytes is refused (40_toeplitz.md R120, 60_exceptions.md R204). -/
theorem exec_hash_of_too_long {s : State} (hk : s.keyLoaded = 0b1111111111#10) (hn : 40 < s.len.toNat) :
    exec .hash s = .next { s with err := 1 } := by
  simp only [exec, execHash, (keyFullyLoaded_iff s).mpr hk, Bool.not_true, if_neg Bool.false_ne_true, Config.maxLenBytes,
    if_pos hn]
  rfl

/-- With the key loaded, every length up to 40 bytes is hashed (40_toeplitz.md R120, R123). -/
theorem exec_hash_of_loaded {s : State} (hk : s.keyLoaded = 0b1111111111#10) (hn : s.len.toNat ≤ 40) :
    exec .hash s = .next { s with hash := toeplitz (keyValue s) (hashInput s s.len.toNat), err := 0 } := by
  simp only [exec, execHash, (keyFullyLoaded_iff s).mpr hk, Bool.not_true, if_neg Bool.false_ne_true, Config.maxLenBytes,
    if_neg (Nat.not_lt.mpr hn)]
  rfl

/-- HASH without the whole key, by the bits of `KEY_LOADED` (40_toeplitz.md R120). -/
theorem exec_hash_of_keyLoaded_ne {s : State} (hk : s.keyLoaded ≠ 0b1111111111#10) :
    exec .hash s = .next { s with err := 3 } :=
  exec_hash_of_key_not_loaded (Bool.eq_false_iff.mpr fun h => hk ((keyFullyLoaded_iff s).mp h))

/-- HASH writes `HASH` and `ERR` alone (30_encoding.md R93). -/
theorem exec_hash_frame {s t : State} (h : exec .hash s = .next t) : t = { s with hash := t.hash, err := t.err } := by
  obtain ⟨-, rfl⟩ | ⟨-, -, rfl⟩ | ⟨-, -, rfl⟩ := execHash_next h <;> rfl

/-- No end of HASH changes an operand, so a second HASH takes the same end and writes the same values again
(40_toeplitz.md R120). -/
theorem exec_hash_again {s t : State} (h : exec .hash s = .next t) : exec .hash t = .next t := by
  obtain ⟨hk, rfl⟩ | ⟨hk, hn, rfl⟩ | ⟨hk, hn, rfl⟩ := execHash_next h
  · exact exec_hash_of_keyLoaded_ne (s := s.setErr 3) hk
  · exact exec_hash_of_too_long (s := s.setErr 1) hk hn
  · exact exec_hash_of_loaded (s := (s.setHash _).setErr 0) hk hn

/-- The empty input selects no window (40_toeplitz.md R120). -/
theorem exec_hash_of_len_zero {s : State} (hk : s.keyLoaded = 0b1111111111#10) (hz : s.len = 0) :
    exec .hash s = .next { s with hash := 0, err := 0 } := by
  have hlen : s.len.toNat = 0 := by rw [hz]; rfl
  rw [exec_hash_of_loaded hk (by omega), hlen]
  rfl

/-- The hash input depends on the data bytes below its length alone (40_toeplitz.md R125). -/
theorem hashInput_congr {s s' : State} {n : Nat} (h : ∀ i < n, dataByte s' i = dataByte s i) :
    hashInput s' n = hashInput s n :=
  List.map_congr_left fun i hi => h i (List.mem_range.mp hi)

-- ## Windows

/-- The bits after `as` select from the working key that `as` has shifted. -/
theorem windowSum_append (k : BitVec 320) (as bs : List Bool) :
    windowSum k (as ++ bs) = windowSum k as ^^^ windowSum (k <<< as.length) bs := by
  induction as generalizing k with
  | nil => simp [windowSum]
  | cons a as ih =>
    rw [List.cons_append, windowSum, windowSum, ih, BitVec.xor_assoc, List.length_cons, ← BitVec.shiftLeft_add,
      Nat.add_comm as.length]

/-- Zero bits select no window. -/
@[simp] theorem windowSum_replicate_false (k : BitVec 320) (n : Nat) : windowSum k (List.replicate n false) = 0 := by
  induction n generalizing k with
  | zero => rfl
  | succ n ih => simp [List.replicate_succ, windowSum, ih]

/-- A single one bit at position `t` selects the window of the key shifted left by `t` (40_toeplitz.md R122). -/
theorem windowSum_single (k : BitVec 320) (t m : Nat) :
    windowSum k (List.replicate t false ++ true :: List.replicate m false) = (k <<< t).extractLsb' 288 32 := by
  simp [windowSum_append, windowSum]

-- ## Inputs with one bit set

theorem inputBits_append (d e : List Byte) : inputBits (d ++ e) = inputBits d ++ inputBits e := List.flatMap_append

theorem inputBits_cons (b : Byte) (d : List Byte) : inputBits (b :: d) = byteBits b ++ inputBits d := List.flatMap_cons

@[simp] theorem inputBits_replicate_zero (n : Nat) : inputBits (List.replicate n 0) = List.replicate (8 * n) false := by
  induction n with
  | zero => rfl
  | succ n ih =>
    rw [List.replicate_succ, inputBits_cons, ih, Nat.mul_succ, Nat.add_comm, List.replicate_add]
    rfl

/-- Input bit `r` of a byte is bit `7 - r` of its value (40_toeplitz.md R121). -/
theorem byteBits_twoPow {r : Nat} (hr : r < 8) :
    byteBits (BitVec.twoPow 8 (7 - r)) = List.replicate r false ++ true :: List.replicate (7 - r) false := by
  have hall : ∀ r : Fin 8,
      byteBits (BitVec.twoPow 8 (7 - r)) = List.replicate r false ++ true :: List.replicate (7 - r) false := by decide
  exact hall ⟨r, hr⟩

/-- A list that is zero but at index `j`, taken apart there. -/
theorem map_range_single {j n : Nat} (b : Byte) (hj : j < n) :
    ((List.range n).map fun i => if i = j then b else 0) =
      List.replicate j 0 ++ b :: List.replicate (n - 1 - j) 0 := by
  apply List.ext_getElem
  · simp only [List.length_map, List.length_range, List.length_append, List.length_replicate, List.length_cons]
    omega
  · intro i _ _
    obtain hlt | rfl | hgt := lt_trichotomy i j
    · simp [hlt, hlt.ne]
    · simp
    · simp [List.getElem_append, List.getElem_cons, hgt.ne', Nat.not_lt.mpr hgt.le, Nat.sub_ne_zero_of_lt hgt]

/-- `n` bytes whose one set bit is input bit `t` (40_toeplitz.md R123). -/
def singleBitInput (n t : Nat) : List Byte :=
  (List.range n).map fun i => if i = t / 8 then BitVec.twoPow 8 (7 - t % 8) else 0

theorem inputBits_singleBitInput {n t : Nat} (ht : t < 8 * n) :
    inputBits (singleBitInput n t) = List.replicate t false ++ true :: List.replicate (8 * n - 1 - t) false := by
  rw [singleBitInput, map_range_single _ (by omega), inputBits_append, inputBits_cons,
    byteBits_twoPow (Nat.mod_lt t (by decide)), inputBits_replicate_zero, inputBits_replicate_zero, List.append_assoc,
    ← List.append_assoc, List.cons_append, ← List.replicate_add, ← List.replicate_add]
  congr 3 <;> omega

/-- The hash of an input whose one set bit is input bit `t` is the window of `t` (40_toeplitz.md R122). -/
theorem toeplitz_singleBitInput (k : BitVec 320) {n t : Nat} (ht : t < 8 * n) :
    toeplitz k (singleBitInput n t) = (k <<< t).extractLsb' 288 32 := by
  rw [toeplitz_eq_windowSum, inputBits_singleBitInput ht, windowSum_single]

/-- Past position 288 a window holds the low bits of the key, zeros below them (40_toeplitz.md R123). -/
theorem window_past_key (k : BitVec 320) {t : Nat} (ht : 288 ≤ t) :
    (k <<< t).extractLsb' 288 32 = (k.extractLsb' 0 32) <<< (t - 288) := by
  apply BitVec.eq_of_getLsbD_eq
  intro p hp
  rw [BitVec.getLsbD_extractLsb', BitVec.getLsbD_shiftLeft, BitVec.getLsbD_shiftLeft, BitVec.getLsbD_extractLsb']
  by_cases hin : p < t - 288
  · simp [hin, show 288 + p < t by omega]
  · simp [hin, hp, show ¬288 + p < t by omega, show 288 + p < 320 by omega, show p - (t - 288) < 32 by omega,
      show 288 + p - t = p - (t - 288) by omega]

-- ## The statements

/-- Settles O30, one equation per end of the command; the worked example is evaluated. -/
theorem hashCommand : Obligations.HashCommand :=
  ⟨rfl, fun _ => ⟨exec_hash_of_keyLoaded_ne, exec_hash_of_too_long, exec_hash_of_loaded, exec_hash_of_len_zero,
    fun _ => exec_hash_again⟩, by decide +kernel⟩

/-- Settles O32: one set bit selects its window, and past position 287 that window runs off the key into zeros. -/
theorem windowsPastTheKeyAreZeroFilled : Obligations.WindowsPastTheKeyAreZeroFilled :=
  ⟨fun k _ hlow hhigh => (toeplitz_singleBitInput k (n := 40) (by omega)).trans (window_past_key k hlow),
    fun _ => exec_hash_of_loaded, by decide +kernel⟩

/-- Settles O34: HASH reads its operands alone and leaves them as they are. -/
theorem hashIsPureAndDeterministic : Obligations.HashIsPureAndDeterministic := by
  refine ⟨fun s t h => ?_, fun s s' hk hk' hkey hlen hn hdata => ?_⟩
  · rw [exec_hash_frame h]
    exact ⟨rfl, rfl, rfl, rfl⟩
  · refine ⟨_, _, exec_hash_of_loaded hk hn, exec_hash_of_loaded hk' (hlen ▸ hn), ?_⟩
    simp only [hkey, hlen, hashInput_congr hdata]

end Sys2Proof.Machine
end

section
/-! SUPPORT. The address codec (41_codec.md): the hash input read a word at a time, what each encode leaves, and that
HASH reads no data byte from `LEN` on. -/

namespace Sys2Proof.Machine

-- ## Words and their bytes

/-- Byte `b` of data word `w`, byte 0 in the top bits (00_scope.md R10). -/
theorem dataByte_word (s : State) (w : Fin 10) {b : Nat} (hb : b < 4) :
    dataByte s (4 * w + b) = (s.data[w]).extractLsb' (24 - 8 * b) 8 := by
  have hdiv : (4 * w.val + b) / 4 = w := by omega
  have hmod : (4 * w.val + b) % 4 = b := by omega
  simp [dataByte, arrayByte, wordByte, hdiv, hmod]

/-- The four bytes of a data word, as the octets of an address are ordered (41_codec.md R140). -/
theorem dataBytes_eq_octets (s : State) (w : Fin 10) :
    [dataByte s (4 * w), dataByte s (4 * w + 1), dataByte s (4 * w + 2), dataByte s (4 * w + 3)] = octets s.data[w] := by
  have h0 := dataByte_word s w (show 0 < 4 by decide)
  rw [Nat.add_zero] at h0
  rw [h0, dataByte_word s w (show 1 < 4 by decide), dataByte_word s w (show 2 < 4 by decide),
    dataByte_word s w (show 3 < 4 by decide)]
  rfl

/-- The hash input grows by the four bytes of a data word (40_toeplitz.md R120). -/
theorem hashInput_add_word (s : State) (w : Fin 10) :
    hashInput s (4 * w + 4) = hashInput s (4 * w) ++ octets s.data[w] := by
  rw [← dataBytes_eq_octets, hashInput, List.range_add, List.map_append]
  rfl

/-- The first eight bytes of the hash input are the first two data words. -/
theorem hashInput_eight (s : State) : hashInput s 8 = octets s.data[0] ++ octets s.data[1] :=
  (hashInput_add_word s 1).trans (congrArg (· ++ octets s.data[1]) (hashInput_add_word s 0))

/-- The first twelve are the first three. -/
theorem hashInput_twelve (s : State) :
    hashInput s 12 = octets s.data[0] ++ octets s.data[1] ++ octets s.data[2] :=
  (hashInput_add_word s 2).trans (congrArg (· ++ octets s.data[2]) (hashInput_eight s))

/-- A pair of ports as a word: the bytes of the first, then those of the second (41_codec.md R142). -/
theorem octets_append (sp dp : BitVec 16) : octets (sp ++ dp) = portBytes sp ++ portBytes dp := by
  simp only [octets, portBytes, List.cons_append, List.nil_append, List.cons.injEq, and_true]
  exact ⟨BitVec.extractLsb'_append_eq_of_le (by decide), BitVec.extractLsb'_append_eq_of_le (by decide),
    BitVec.extractLsb'_append_eq_of_add_le (by decide), BitVec.extractLsb'_append_eq_of_add_le (by decide)⟩

/-- The low half of a word is its value modulo 2^16, all that a port write keeps (10_state.md R37). -/
theorem extractLsb'_eq_of_mod_eq {v v' : Word} (h : v.toNat % 65536 = v'.toNat % 65536) :
    v.extractLsb' 0 16 = v'.extractLsb' 0 16 :=
  BitVec.eq_of_toNat_eq (by simpa [BitVec.extractLsb'_toNat] using h)

-- ## The two encodes

/-- The state that ENCODE_PAIR leaves (41_codec.md R141). -/
def State.pairEncoded (s : State) : State :=
  { s with data := (s.data.set 0 s.srcIp).set 1 s.dstIp, len := 8, err := 0 }

theorem exec_encodePair (s : State) : exec .encodePair s = .next s.pairEncoded := execEncodePair_eq s

/-- The state that ENCODE_TUPLE leaves (41_codec.md R142). -/
def State.tupleEncoded (s : State) : State :=
  { s with data := ((s.data.set 0 s.srcIp).set 1 s.dstIp).set 2 (s.srcPort ++ s.dstPort), len := 12, err := 0 }

theorem exec_encodeTuple (s : State) : exec .encodeTuple s = .next s.tupleEncoded := execEncodeTuple_eq s

-- ## HASH and the data it reads

/-- HASH always ends, with a hash or with an error (40_toeplitz.md R120). -/
theorem exec_hash_completes (s : State) : ∃ t, exec .hash s = .next t := by
  by_cases hk : s.keyLoaded = 0b1111111111#10
  · by_cases hn : s.len.toNat ≤ 40
    · exact ⟨_, exec_hash_of_loaded hk hn⟩
    · exact ⟨_, exec_hash_of_too_long hk (Nat.lt_of_not_le hn)⟩
  · exact ⟨_, exec_hash_of_keyLoaded_ne hk⟩

/-- HASH takes the same end and writes the same values on any data with the same hash input, and leaves that data as it
is (40_toeplitz.md R120). -/
theorem exec_hash_with_data {s t : State} {d : Vector Word 10} (h : exec .hash s = .next t)
    (hd : hashInput { s with data := d } s.len.toNat = hashInput s s.len.toNat) :
    exec .hash { s with data := d } = .next { t with data := d } := by
  obtain ⟨hk, rfl⟩ | ⟨hk, hn, rfl⟩ | ⟨hk, hn, rfl⟩ := execHash_next h
  · exact exec_hash_of_keyLoaded_ne (s := { s with data := d }) hk
  · exact exec_hash_of_too_long (s := { s with data := d }) hk hn
  · rw [exec_hash_of_loaded (s := { s with data := d }) hk hn, hd]
    rfl

/-- With the key loaded, HASH computes the hash of its first `LEN` data bytes (40_toeplitz.md R120). -/
theorem exec_hash_of_input {s : State} {n : Nat} {d : List Byte} (hk : s.keyLoaded = 0b1111111111#10)
    (hlen : s.len.toNat = n) (hn : n ≤ 40) (hd : hashInput s n = d) :
    ∃ u, exec .hash s = .next u ∧ u.err = 0 ∧ u.hash = toeplitz (keyValue s) d := by
  subst hlen hd
  exact ⟨_, exec_hash_of_loaded hk hn, rfl, rfl⟩

-- ## The statements

/-- Settles O36: with `LEN = 8` the hash input is the first two data words, so other words after them change nothing. -/
theorem encodePairCommand : Obligations.EncodePairCommand := by
  refine ⟨rfl, exec_encodePair, fun s d hlen h0 h1 => ?_⟩
  obtain ⟨t, ht⟩ := exec_hash_completes s
  refine ⟨t, ht, exec_hash_with_data ht ?_⟩
  rw [hlen]
  calc hashInput { s with data := d } 8
      = octets d[0] ++ octets d[1] := hashInput_eight _
    _ = octets s.data[0] ++ octets s.data[1] := by rw [h0, h1]
    _ = hashInput s 8 := (hashInput_eight s).symm

/-- Settles O37: the ports are data word 2, whose bytes are the ports' bytes, and a port write keeps 16 bits. -/
theorem encodeTupleCommand : Obligations.EncodeTupleCommand := by
  refine ⟨rfl, fun s => ⟨s.tupleEncoded, exec_encodeTuple s, rfl, ?_⟩, fun s v v' h => ?_⟩
  · have hword : s.tupleEncoded.data[(2 : Fin 10)] = s.srcPort ++ s.dstPort := by simp [State.tupleEncoded]
    have hbytes := dataBytes_eq_octets s.tupleEncoded 2
    rw [hword, octets_append] at hbytes
    simpa [portBytes] using hbytes
  · have hlow := extractLsb'_eq_of_mod_eq h
    simp only [regWrite, State.setSrcPort, State.setDstPort, hlow, and_self]

/-- Settles O38: each encode leaves the flow's bytes as the hash input and the key as it was. -/
theorem encodeThenHashHashesTheFlow : Obligations.EncodeThenHashHashesTheFlow := by
  refine fun s => ⟨⟨s.pairEncoded, exec_encodePair s, ?_⟩, s.tupleEncoded, exec_encodeTuple s, ?_⟩
  · have hin : hashInput s.pairEncoded 8 = octets s.srcIp ++ octets s.dstIp := by
      simp [hashInput_eight, State.pairEncoded]
    exact ⟨hin, fun hk => exec_hash_of_input (n := 8) hk rfl (by decide) hin⟩
  · have hin : hashInput s.tupleEncoded 12 =
        octets s.srcIp ++ octets s.dstIp ++ portBytes s.srcPort ++ portBytes s.dstPort := by
      simp [hashInput_twelve, State.tupleEncoded, octets_append]
    exact ⟨hin, fun hk => exec_hash_of_input (n := 12) hk rfl (by decide) hin⟩

end Sys2Proof.Machine
end

section
/-! SUPPORT. The redirection table (42_reta.md): its entries, the list that the source's three steps leave, and the ends
of BUILD_RETA and QUEUE_OF. -/

namespace Sys2Proof.Machine

-- ## The order of the entries

/-- Place `r` of a block of 4 holds the index that stands at place `3 - r` (42_reta.md R161). -/
theorem reversedIndex_block (m : Nat) {r : Nat} (hr : r < 4) : reversedIndex (4 * m + r) = 4 * m + (3 - r) := by
  unfold reversedIndex
  omega

/-- A block further on is reversed in the same way. -/
theorem reversedIndex_four_add (i : Nat) : reversedIndex (4 + i) = 4 + reversedIndex i := by
  unfold reversedIndex
  omega

/-- Reversed twice, a block is as it was. -/
theorem reversedIndex_reversedIndex (i : Nat) : reversedIndex (reversedIndex i) = i := by
  unfold reversedIndex
  omega

/-- An involution takes each value at one index alone: the value's own image. -/
theorem reversedIndex_eq_iff {i k : Nat} : reversedIndex i = k ↔ i = reversedIndex k :=
  ⟨fun h => h ▸ (reversedIndex_reversedIndex i).symm, fun h => h ▸ reversedIndex_reversedIndex k⟩

-- ## The entries

/-- An entry is below the count of queues and below 128 (42_reta.md R161). -/
theorem retaEntry_lt_min {i q : Nat} (hi : i < 128) (hq : 0 < q) : retaEntry i q < min q 128 :=
  Nat.lt_min.mpr ⟨Nat.mod_lt _ hq, Nat.lt_of_le_of_lt (Nat.mod_le _ _) (reversedIndex_lt hi)⟩

/-- From 128 queues on no entry wraps (42_reta.md R164). -/
theorem retaEntry_of_many {i q : Nat} (hi : i < 128) (hq : 128 ≤ q) : retaEntry i q = reversedIndex i :=
  Nat.mod_eq_of_lt (Nat.lt_of_lt_of_le (reversedIndex_lt hi) hq)

/-- From 128 queues on every table is the same (42_reta.md R164). -/
theorem retaTable_of_many {q q' : Nat} (hq : 128 ≤ q) (hq' : 128 ≤ q') : retaTable q = retaTable q' := by
  unfold retaTable
  congr 1
  funext i
  rw [retaEntry_of_many i.isLt hq, retaEntry_of_many i.isLt hq']

/-- The table read from slot 0 on. -/
theorem retaTable_toList (q : Nat) :
    (retaTable q).toList.map BitVec.toNat = (List.range 128).map (retaEntry · q) := by
  apply List.ext_getElem
  · simp
  · intro i hi _
    have hi : i < 128 := by simpa using hi
    simpa using retaTable_toNat q ⟨i, hi⟩

-- ## The three steps

/-- Reversing the blocks of a list of whole blocks reads it in the reversed order (42_reta.md R162 step 3). -/
theorem reverseBlocks_map_range (f : Nat → Nat) (n : Nat) :
    reverseBlocks ((List.range (4 * n)).map f) = (List.range (4 * n)).map fun i => f (reversedIndex i) := by
  induction n generalizing f with
  | zero => rfl
  | succ n ih =>
    have hblock : List.range (4 * (n + 1)) = 0 :: 1 :: 2 :: 3 :: (List.range (4 * n)).map (4 + ·) := by
      rw [Nat.mul_succ, Nat.add_comm, List.range_add]
      rfl
    simp only [hblock, List.map_cons, List.map_map, reverseBlocks, Function.comp_def, ih fun i => f (4 + i),
      reversedIndex_four_add]
    rfl

/-- The three steps leave the closed form, entry by entry (42_reta.md R162). -/
theorem threeStepTable_eq (q : Nat) : threeStepTable q = (List.range 128).map (retaEntry · q) :=
  reverseBlocks_map_range (· % q) 32

/-- Reversing the blocks of a list only reorders it. -/
theorem reverseBlocks_perm (l : List Nat) : (reverseBlocks l).Perm l := by
  induction l using reverseBlocks.induct with
  | case1 a b c d rest ih =>
    have hblock : [d, c, b, a].Perm [a, b, c, d] := List.reverse_perm [a, b, c, d]
    exact hblock.append ih
  | case2 short hshort =>
    rw [reverseBlocks]
    · exact List.reverse_perm short
    · exact hshort

/-- The table for `q` queues holds the round-robin values, in another order (42_reta.md R162). -/
theorem retaTable_perm_roundRobin (q : Nat) : ((retaTable q).toList.map BitVec.toNat).Perm (roundRobin q) := by
  rw [retaTable_toList, ← threeStepTable_eq]
  exact reverseBlocks_perm _

/-- Sixteen queues take eight turns each (42_reta.md R164). -/
theorem roundRobin_count_sixteen {v : Nat} (hv : v < 16) : (roundRobin 16).count v = 8 := by
  have hturn : ∀ i, i % 16 = v ↔ i ≡ v [MOD 16] := fun i => by rw [Nat.ModEq, Nat.mod_eq_of_lt hv]
  calc (roundRobin 16).count v
      = Nat.count (· ≡ v [MOD 16]) 128 := by
        simp [roundRobin, List.count, List.countP_map, Nat.count, Function.comp_def, ← hturn, beq_eq_decide]
    _ = 8 := by simp [Nat.count_modEq_card 128 (show 0 < 16 by decide)]

/-- Block `k` of a list over the indices: the values at its four places (42_reta.md R164). -/
theorem map_range_extract_block (f : Nat → Nat) {k n : Nat} (hk : 4 * k + 4 ≤ n) :
    ((List.range n).map f).extract (4 * k) (4 * k + 4) = [f (4 * k), f (4 * k + 1), f (4 * k + 2), f (4 * k + 3)] := by
  rw [List.extract_eq_take_drop]
  apply List.ext_getElem
  · simp only [List.length_take, List.length_drop, List.length_map, List.length_range, List.length_cons,
      List.length_nil]
    omega
  · intro r _ hr
    match r, hr with
    | 0, _ | 1, _ | 2, _ | 3, _ => simp

-- ## The ends of the two commands

theorem exec_buildReta_of_cpus_zero {s : State} (hc : s.cpus = 0) : exec .buildReta s = .next { s with err := 2 } := by
  simp only [exec, execBuildReta, if_pos hc]
  rfl

/-- The state that a successful BUILD_RETA leaves (42_reta.md R160). -/
def State.retaBuilt (s : State) : State :=
  { s with
    reta := retaTable (queueCount s.cpus), queues := BitVec.ofNat 32 (queueCount s.cpus), retaValid := true, err := 0 }

theorem exec_buildReta_of_cpus_ne_zero {s : State} (hc : s.cpus ≠ 0) : exec .buildReta s = .next s.retaBuilt := by
  simp only [exec, execBuildReta, if_neg hc]
  rfl

/-- The slot is the value of the low seven bits of the hash (42_reta.md R163). -/
theorem retaSlot_val (h : Word) : (retaSlot h).val = (h &&& Config.retaIndexMask).toNat := by
  calc (retaSlot h).val
      = h.toNat % 2 ^ 7 := by simp [retaSlot]
    _ = h.toNat &&& (2 ^ 7 - 1) := (Nat.and_two_pow_sub_one_eq_mod _ 7).symm
    _ = (h &&& Config.retaIndexMask).toNat := (BitVec.toNat_and h Config.retaIndexMask).symm

theorem exec_queueOf_of_no_table {s : State} (hv : s.retaValid = false) :
    exec .queueOf s = .next { s with err := 4 } := by
  simp only [exec, execQueueOf, if_pos (show (!s.retaValid) = true by simp [hv])]
  rfl

theorem exec_queueOf_of_table {s : State} (hv : s.retaValid = true) :
    exec .queueOf s = .next { s with queue := s.reta[retaSlot s.hash], err := 0 } := by
  simp only [exec, execQueueOf, if_neg (show ¬(!s.retaValid) = true by simp [hv])]
  rfl

-- ## The laws

/-- Equal bits 6:0 select the same slot (42_reta.md R164, law 1). -/
theorem retaSlot_congr {h h' : Word} (hbits : h'.extractLsb' 0 7 = h.extractLsb' 0 7) : retaSlot h' = retaSlot h :=
  congrArg BitVec.toFin hbits

/-- Equal bits 6:0 of the hash select the same queue under one table (42_reta.md R164, law 1). -/
theorem exec_queueOf_congr {s s' t t' : State} (hreta : s'.reta = s.reta) (hv : s.retaValid = true)
    (hv' : s'.retaValid = true) (hbits : s'.hash.extractLsb' 0 7 = s.hash.extractLsb' 0 7)
    (h : exec .queueOf s = .next t) (h' : exec .queueOf s' = .next t') : t'.queue = t.queue := by
  rw [exec_queueOf_of_table hv] at h
  rw [exec_queueOf_of_table hv'] at h'
  cases h
  cases h'
  simp only [hreta, retaSlot_congr hbits]

/-- One to sixteen CPUs ask for sixteen queues (42_reta.md R164, law 2). -/
theorem queueCount_of_few {c : Word} (hc : c.toNat ≤ 16) : queueCount c = 16 := max_eq_left hc

/-- Four entries of the table for sixteen queues, a block in reverse (42_reta.md R164, law 2). -/
theorem retaTable_sixteen_block {k : Nat} (hk : k < 32) :
    ((retaTable 16).toList.map BitVec.toNat).extract (4 * k) (4 * k + 4) =
      [(4 * k + 3) % 16, (4 * k + 2) % 16, (4 * k + 1) % 16, (4 * k) % 16] := by
  have hentry : ∀ r < 4, retaEntry (4 * k + r) 16 = (4 * k + (3 - r)) % 16 :=
    fun r hr => congrArg (· % 16) (reversedIndex_block k hr)
  rw [retaTable_toList, map_range_extract_block _ (by omega)]
  rw [hentry 1 (by decide), hentry 2 (by decide), hentry 3 (by decide)]
  exact congrArg (· :: _) (hentry 0 (by decide))

/-- Each of sixteen queues stands in eight slots (42_reta.md R164, law 2). -/
theorem retaTable_sixteen_count {v : Nat} (hv : v < 16) :
    ((retaTable 16).toList.map BitVec.toNat).count v = 8 :=
  ((retaTable_perm_roundRobin 16).count_eq v).trans (roundRobin_count_sixteen hv)

/-- In a state of the invariant a successful QUEUE_OF answers a queue of the table (42_reta.md R164, law 3). -/
theorem exec_queueOf_queue_lt {s t : State} (hinv : s.Inv) (h : exec .queueOf s = .next t) (herr : t.err = 0) :
    t.queue.toNat < min t.queues.toNat 128 := by
  have hv : s.retaValid = true := (exec_queueOf_succeeds_iff s).mp ⟨t, h, herr⟩
  obtain ⟨hq, hentry⟩ := hinv.table hv
  rw [exec_queueOf_of_table hv] at h
  cases h
  show (s.reta[retaSlot s.hash]).toNat < min s.queues.toNat 128
  rw [hentry]
  exact retaEntry_lt_min (retaSlot s.hash).isLt (by omega)

-- ## The statements

/-- Settles O39. -/
theorem buildRetaCommand : Obligations.BuildRetaCommand :=
  ⟨rfl, fun s => ⟨exec_buildReta_of_cpus_zero, fun hc => ⟨s.retaBuilt, exec_buildReta_of_cpus_ne_zero hc,
    retaTable_toNat (queueCount s.cpus), queueCount_toNat s.cpus, rfl⟩⟩⟩

/-- Settles O40: an involution on the indices of a block is a permutation of them. -/
theorem retaEntryReversesBlocksOfFour : Obligations.RetaEntryReversesBlocksOfFour := by
  refine ⟨fun i q hi hq => ⟨rfl, ?_⟩, fun m r _ hr => reversedIndex_block m hr, fun k hk => ?_,
    fun i q _ => retaTable_toNat q i⟩
  · have hlt := retaEntry_lt_min hi (show 0 < q by omega)
    omega
  · exact ⟨reversedIndex k, reversedIndex_lt hk, reversedIndex_reversedIndex k, fun j _ => reversedIndex_eq_iff.mp⟩

/-- Settles O41: the table and the three steps are both the closed form. -/
theorem buildRetaRefinesTheThreeSteps : Obligations.BuildRetaRefinesTheThreeSteps := by
  refine ⟨fun s hc => ⟨s.retaBuilt, exec_buildReta_of_cpus_ne_zero hc, ?_⟩, fun q m r _ hm hr => ?_⟩
  · exact (retaTable_toList (queueCount s.cpus)).trans (threeStepTable_eq (queueCount s.cpus)).symm
  · have hentry : retaEntry (4 * m + r) q = (4 * m + (3 - r)) % q := congrArg (· % q) (reversedIndex_block m hr)
    have hi : 4 * m + r < 128 := by omega
    exact ⟨by simp [threeStepTable_eq, hi, hentry], hentry⟩

/-- Settles O42. -/
theorem queueOfCommand : Obligations.QueueOfCommand :=
  ⟨rfl, fun s => ⟨exec_queueOf_of_no_table, fun hv =>
    ⟨retaSlot s.hash, retaSlot_val s.hash, exec_queueOf_of_table hv⟩⟩⟩

/-- Settles O43, one lemma per law. -/
theorem retaLaws : Obligations.RetaLaws := by
  refine ⟨fun _ _ _ _ => exec_queueOf_congr, fun c _ hc => ?_, fun _ _ => exec_queueOf_queue_lt,
    fun _ _ h => congrArg retaTable h, fun c c' hc hc' => ?_⟩
  · rw [queueCount_of_few hc]
    exact ⟨fun _ => retaTable_sixteen_block, fun _ => retaTable_sixteen_count⟩
  · exact retaTable_of_many (le_max_of_le_right hc) (le_max_of_le_right hc')

end Sys2Proof.Machine
end

section
/-! SUPPORT. Control (43_control.md): the command words that run nothing, and that a command issued again, its operands
unchanged, changes nothing more. -/

namespace Sys2Proof.Machine

-- ## NOP and the illegal words

theorem exec_nop (s : State) : exec .nop s = .next { s with err := 0 } := execNop_eq s

theorem exec_illegal (rsvd : BitVec 24) (op : BitVec 8) (s : State) :
    exec (.illegal rsvd op) s = .next { s with err := 5 } := execIllegal_eq rsvd op s

/-- A command word with a reserved bit set is stored, runs nothing and is reported, whatever its opcode
(30_encoding.md R92, 43_control.md R180). -/
theorem regWrite_cmd_of_rsvd {v : Word} (hr : rsvdField v ≠ 0#24) (s : State) :
    regWrite .cmd v s = .next { s with cmd := v, err := 5 } := by
  have hexec : regWrite .cmd v s = exec (decode v) (s.setCmd v) := rfl
  rw [hexec, decode_of_rsvd hr]
  exact exec_illegal (rsvdField v) (opField v) (s.setCmd v)

-- ## A command issued again

/-- Writing the word that already stands there changes nothing. -/
theorem set_of_getElem_eq {n i : Nat} {d : Vector Word n} {v : Word} (hi : i < n) (h : d[i] = v) : d.set i v = d := by
  rw [← h, Vector.set_getElem_self]

/-- ENCODE_PAIR writes neither address, so a second one finds every word it writes already there (41_codec.md R141). -/
theorem pairEncoded_pairEncoded (s : State) : s.pairEncoded.pairEncoded = s.pairEncoded := by
  simp [State.pairEncoded, set_of_getElem_eq]

/-- ENCODE_TUPLE writes neither an address nor a port, so the same holds of it (41_codec.md R142). -/
theorem tupleEncoded_tupleEncoded (s : State) : s.tupleEncoded.tupleEncoded = s.tupleEncoded := by
  simp [State.tupleEncoded, set_of_getElem_eq]

/-- Neither end of BUILD_RETA changes `CPUS`, so a second one takes the same end (42_reta.md R160). -/
theorem exec_buildReta_again {s t : State} (h : exec .buildReta s = .next t) : exec .buildReta t = .next t := by
  obtain ⟨hc, rfl⟩ | ⟨hc, rfl⟩ := execBuildReta_next h
  · exact exec_buildReta_of_cpus_zero (s := s.setErr 2) hc
  · exact exec_buildReta_of_cpus_ne_zero (s := s.retaBuilt) hc

/-- Neither end of QUEUE_OF changes the table or the hash, so a second one takes the same end and reads the same slot
(42_reta.md R163). -/
theorem exec_queueOf_again {s t : State} (h : exec .queueOf s = .next t) : exec .queueOf t = .next t := by
  obtain ⟨hv, rfl⟩ | ⟨hv, rfl⟩ := execQueueOf_next h
  · exact exec_queueOf_of_no_table (s := s.setErr 4) hv
  · exact exec_queueOf_of_table (s := (s.setQueue s.reta[retaSlot s.hash]).setErr 0) hv

-- ## The statements

/-- Settles O29, by the command: no command writes an operand of its own. -/
theorem commandsAreIdempotent : Obligations.CommandsAreIdempotent := by
  intro i s t h
  cases i with
  | nop => cases h; rfl
  | hash => exact exec_hash_again h
  | encodePair =>
    rw [exec_encodePair] at h ⊢
    cases h
    rw [pairEncoded_pairEncoded]
  | encodeTuple =>
    rw [exec_encodeTuple] at h ⊢
    cases h
    rw [tupleEncoded_tupleEncoded]
  | buildReta => exact exec_buildReta_again h
  | queueOf => exact exec_queueOf_again h
  | illegal => cases h; rfl

/-- Settles O24: the reserved bit alone makes the word illegal, and a machine in reset has nothing waiting. -/
theorem nopReportsSuccessOnly : Obligations.NopReportsSuccessOnly :=
  ⟨rfl, exec_nop, fun s v rest _ hr => (step_write s .cmd v rest).trans (regWrite_cmd_of_rsvd hr _), rfl, rfl⟩

end Sys2Proof.Machine
end

section
/-! SUPPORT. The outcome of a command (60_exceptions.md R201 to R204): the code it leaves in `ERR`, and that a command which
fails writes nothing else. -/

namespace Sys2Proof.Machine

-- ## The outcome code

/-- The code a command leaves in `ERR`, by the command and its operands (60_exceptions.md R201), the checks of HASH in
their order (R204). `exec_outcome` ties it to `exec`. -/
def outcomeCode : Instr → State → BitVec 8
  | .hash, s => if s.keyLoaded ≠ 0b1111111111 then 3 else if 40 < s.len.toNat then 1 else 0
  | .buildReta, s => if s.cpus = 0 then 2 else 0
  | .queueOf, s => if s.retaValid = false then 4 else 0
  | .illegal _ _, _ => 5
  | .nop, _ | .encodePair, _ | .encodeTuple, _ => 0

/-- The two ends of every command: it fails and writes its code alone (60_exceptions.md R203), or it succeeds and clears
`ERR` (R202). -/
theorem exec_outcome (i : Instr) (s : State) :
    (outcomeCode i s ≠ 0 ∧ exec i s = .next { s with err := outcomeCode i s }) ∨
    (outcomeCode i s = 0 ∧ ∃ t, exec i s = .next t ∧ t.err = 0) := by
  cases i with
  | nop => exact .inr ⟨rfl, _, exec_nop s, rfl⟩
  | hash =>
    by_cases hk : s.keyLoaded = 0b1111111111#10
    · by_cases hn : s.len.toNat ≤ 40
      · exact .inr ⟨by simp [outcomeCode, hk, hn], _, exec_hash_of_loaded hk hn, rfl⟩
      · have hn' : 40 < s.len.toNat := Nat.lt_of_not_le hn
        exact .inl (by simp [outcomeCode, hk, hn', exec_hash_of_too_long hk hn'])
    · exact .inl (by simp [outcomeCode, hk, exec_hash_of_keyLoaded_ne hk])
  | encodePair => exact .inr ⟨rfl, _, exec_encodePair s, rfl⟩
  | encodeTuple => exact .inr ⟨rfl, _, exec_encodeTuple s, rfl⟩
  | buildReta =>
    by_cases hc : s.cpus = 0
    · exact .inl (by simp [outcomeCode, hc, exec_buildReta_of_cpus_zero hc])
    · exact .inr ⟨if_neg hc, _, exec_buildReta_of_cpus_ne_zero hc, rfl⟩
  | queueOf =>
    by_cases hv : s.retaValid = false
    · exact .inl (by simp [outcomeCode, hv, exec_queueOf_of_no_table hv])
    · exact .inr ⟨if_neg hv, _, exec_queueOf_of_table (Bool.eq_true_of_not_eq_false hv), rfl⟩
  | illegal rsvd op => exact .inl (by simp [outcomeCode, exec_illegal])

/-- Every command goes on, with its code in `ERR` (60_exceptions.md R201, R202). -/
theorem exec_completes_with_outcomeCode (i : Instr) (s : State) :
    ∃ t, exec i s = .next t ∧ t.err = outcomeCode i s := by
  obtain ⟨-, h⟩ | ⟨hcode, t, h, herr⟩ := exec_outcome i s
  · exact ⟨_, h, rfl⟩
  · exact ⟨t, h, herr.trans hcode.symm⟩

/-- A command that leaves a code other than 0 writes `ERR` alone (60_exceptions.md R203). -/
theorem exec_frame_of_failed {i : Instr} {s t : State} (h : exec i s = .next t) (herr : t.err ≠ 0) :
    t = { s with err := t.err } := by
  obtain ⟨-, hfail⟩ | ⟨-, u, hsucc, hzero⟩ := exec_outcome i s
  · rw [hfail] at h
    cases h
    rfl
  · rw [hsucc] at h
    cases h
    exact absurd hzero herr

-- ## The command word

/-- A word with no reserved bit and an opcode below 0x06 is one of the map's six (30_encoding.md R91, R92). -/
theorem mem_rowWords_of_legal {v : Word} (hr : rsvdField v = 0#24) (hop : (opField v).toNat < 6) :
    v ∈ Laws.OwnTableWord.rowWords := by
  have hv : v = (0#24 ++ opField v : Word) := by rw [← hr, join_fields]
  have hop' : opField v ∈ [0#8, 1#8, 2#8, 3#8, 4#8, 5#8] := by
    generalize opField v = op at hop
    revert op
    decide
  simp only [List.mem_cons, List.not_mem_nil, or_false] at hop'
  obtain h | h | h | h | h | h := hop' <;> rw [hv, h] <;> decide

/-- The outcome code by the command word: the illegal words first, then the checks of each command
(60_exceptions.md R204). -/
theorem outcomeCode_decode (v : Word) (s : State) : outcomeCode (decode v) s =
    if rsvdField v ≠ 0 ∨ 6 ≤ (opField v).toNat then 5
    else if v = 0x00000001 ∧ s.keyLoaded ≠ 0b1111111111 then 3
    else if v = 0x00000001 ∧ 40 < s.len.toNat then 1
    else if v = 0x00000004 ∧ s.cpus = 0 then 2
    else if v = 0x00000005 ∧ s.retaValid = false then 4
    else 0 := by
  by_cases hill : rsvdField v ≠ 0 ∨ 6 ≤ (opField v).toNat
  · have hdec : decode v = .illegal (rsvdField v) (opField v) := hill.elim decode_of_rsvd decode_of_op
    rw [if_pos hill, hdec]
    rfl
  · rw [if_neg hill]
    obtain ⟨hr, hop⟩ := not_or.mp hill
    have hv := mem_rowWords_of_legal (not_not.mp hr) (Nat.lt_of_not_le hop)
    simp only [Laws.OwnTableWord.rowWords, List.mem_cons, List.not_mem_nil, or_false] at hv
    obtain rfl | rfl | rfl | rfl | rfl | rfl := hv
    · change outcomeCode .nop s = _; simp [outcomeCode]
    · change outcomeCode .hash s = _; simp [outcomeCode]
    · change outcomeCode .encodePair s = _; simp [outcomeCode]
    · change outcomeCode .encodeTuple s = _; simp [outcomeCode]
    · change outcomeCode .buildReta s = _; simp [outcomeCode]
    · change outcomeCode .queueOf s = _; simp [outcomeCode]

/-- A step on a waiting `CMD` write stores the word, then runs the command it decodes to (10_state.md R23,
30_encoding.md R94). -/
theorem step_of_cmd_write {s : State} {v : Word} {rest : List Event}
    (hb : s.bus = .access (.write 0x000 4 v) :: rest) :
    step s = exec (decode v) { s with bus := rest, cmd := v } :=
  (step_of_bus_cons hb).trans (hostAccess_write .cmd v (s.setBus rest))

-- ## The statements

/-- Settles O25: the step runs the decoded command, whose code is read off the word. -/
theorem outcomeCodeOfEveryCommand : Obligations.OutcomeCodeOfEveryCommand := by
  intro s v rest hb
  obtain ⟨t, ht, herr⟩ := exec_completes_with_outcomeCode (decode v) { s with bus := rest, cmd := v }
  exact ⟨t, (step_of_cmd_write hb).trans ht, herr.trans (outcomeCode_decode v _)⟩

/-- Settles O26. -/
theorem failedCommandChangesOnlyErr : Obligations.FailedCommandChangesOnlyErr := by
  intro s t v rest hb hstep herr
  rw [step_of_cmd_write hb] at hstep
  exact exec_frame_of_failed hstep herr

end Sys2Proof.Machine
end

section
/-! SUPPORT. The command word (30_encoding.md R90 to R95): decoding and encoding are inverse, and a waiting `CMD` write
runs the command it decodes to. -/

namespace Sys2Proof.Machine

-- ## The two directions of the round trip

theorem illegalFields_iff (rsvd : BitVec 24) (op : BitVec 8) :
    illegalFields rsvd op = true ↔ rsvd ≠ 0#24 ∨ 6 ≤ op.toNat := by
  simp [illegalFields]

/-- A word with a reserved bit set or an opcode in 0x06..0xFF is illegal, and its term carries its fields
(30_encoding.md R92). -/
theorem decode_of_illegal {v : Word} (h : rsvdField v ≠ 0#24 ∨ 6 ≤ (opField v).toNat) :
    decode v = .illegal (rsvdField v) (opField v) :=
  h.elim decode_of_rsvd decode_of_op

/-- Every other word is one of the six commands (30_encoding.md R91). -/
theorem decode_mem_of_legal {v : Word} (h : ¬(rsvdField v ≠ 0#24 ∨ 6 ≤ (opField v).toNat)) :
    decode v ∈ [.nop, .hash, .encodePair, .encodeTuple, .buildReta, .queueOf] := by
  obtain ⟨hr, hop⟩ := not_or.mp h
  have hrows : Laws.OwnTableWord.rowWords.map decode =
      [.nop, .hash, .encodePair, .encodeTuple, .buildReta, .queueOf] := rfl
  rw [← hrows]
  exact List.mem_map_of_mem (mem_rowWords_of_legal (not_not.mp hr) (Nat.lt_of_not_le hop))

/-- The fields of an illegal term come back out of its word, which is illegal for the same reason
(30_encoding.md R92). -/
theorem decode_encode {i : Instr} (hwf : i.wellFormed = true) : decode (encode i) = i := by
  cases i with
  | illegal rsvd op =>
    have hfields : rsvd ≠ 0#24 ∨ 6 ≤ op.toNat := (illegalFields_iff rsvd op).mp hwf
    have hdec := decode_of_illegal (v := rsvd ++ op) (by rwa [rsvdField_join, opField_join])
    rwa [rsvdField_join, opField_join] at hdec
  | _ => rfl

/-- The decoder makes no ill-formed term (30_encoding.md R92). -/
theorem wellFormed_decode (v : Word) : (decode v).wellFormed = true := by
  by_cases hill : rsvdField v ≠ 0#24 ∨ 6 ≤ (opField v).toNat
  · rw [decode_of_illegal hill]
    exact (illegalFields_iff _ _).mpr hill
  · have hall : ∀ i ∈ [Instr.nop, .hash, .encodePair, .encodeTuple, .buildReta, .queueOf], i.wellFormed = true := by
      decide
    exact hall (decode v) (decode_mem_of_legal hill)

-- ## The statements

/-- Settles O1: each word is evaluated. -/
theorem opcodeMapWordsDecode : Obligations.OpcodeMapWordsDecode := by
  unfold Obligations.OpcodeMapWordsDecode
  decide

/-- Settles O2. -/
theorem decodeOfEncodeIsTheCommand : Obligations.DecodeOfEncodeIsTheCommand := fun _ => decode_encode

/-- Settles O3. -/
theorem everyWordHasOneCommand : Obligations.EveryWordHasOneCommand :=
  fun v => ⟨wellFormed_decode v, encode_decode v, fun _ hwf h => h ▸ (decode_encode hwf).symm⟩

/-- Settles O4: an illegal word is stored, and the command it decodes to reports 5. -/
theorem illegalWordReportsFive : Obligations.IllegalWordReportsFive := by
  refine ⟨exec_illegal, fun s v rest hb => ⟨fun hill => ?_, decode_mem_of_legal⟩⟩
  rw [step_of_cmd_write hb, decode_of_illegal hill]
  exact exec_illegal _ _ _

/-- Settles O5. -/
theorem stepRunsTheDecodedCommand : Obligations.StepRunsTheDecodedCommand := fun _ _ _ => step_of_cmd_write

/-- Settles O6: the mnemonic's access is a `CMD` write, and its word decodes to the command. -/
theorem mnemonicLineRunsItsCommand : Obligations.MnemonicLineRunsItsCommand := by
  refine fun s i rest hwf => ⟨rfl, ?_⟩
  rw [step_of_cmd_write (v := encode i) rfl, decode_encode hwf]

/-- Settles O7: the table's word goes to `CMD`, where the same decoder reads it. -/
theorem tableWordReachesTheDecoder : Obligations.TableWordReachesTheDecoder := by
  intro s nbits w i h
  obtain ⟨-, rfl⟩ : tableValue nbits w < 2 ^ 32 ∧ decode (tableWord nbits w) = i := by
    simpa [decodeTableWord] using h
  refine ⟨step_of_cmd_write (s := s.withFetchWord nbits w) rfl, ?_⟩
  rintro rfl
  rw [encode_decode]
  exact BitVec.eq_of_toNat_eq (by simp [tableWord, tableValue])

end Sys2Proof.Machine
end

section
/-! SUPPORT. The register map (20_memory.md R61, R62), and when a host access is performed (R63 to R65): the offsets
that no register has, the access errors, and that every other access completes. -/

namespace Sys2Proof.Machine

-- ## Unmapped offsets

/-- An array has no word exactly at the offsets outside it and at the misaligned ones (20_memory.md R62). -/
theorem arrayIndex_eq_none_iff {first words off : Nat} :
    arrayIndex first words off = none ↔ off < first ∨ first + 4 * words ≤ off ∨ off % 4 ≠ 0 := by
  refine ⟨fun h => ?_, arrayIndex_eq_none⟩
  unfold arrayIndex at h
  split at h
  · cases h
  · omega

/-- Past the named registers an offset is unmapped exactly when it lies in none of the three arrays
(20_memory.md R62). -/
theorem arrayAt_eq_none_iff {off : Nat} :
    arrayAt off = none ↔ arrayIndex 0x040 10 off = none ∧ arrayIndex 0x080 10 off = none ∧
      arrayIndex 0x200 128 off = none := by
  simp [arrayAt]

/-- The offsets that the register map does not list (20_memory.md R62). -/
theorem regAt_eq_none_iff (off : BitVec 10) : regAt off = none ↔
    (off.toNat % 4 ≠ 0 ∨ (0x02C ≤ off.toNat ∧ off.toNat ≤ 0x03F) ∨ (0x068 ≤ off.toNat ∧ off.toNat ≤ 0x07F) ∨
      (0x0A8 ≤ off.toNat ∧ off.toNat ≤ 0x1FF)) := by
  have hoff := off.isLt
  unfold regAt
  split
  case h_12 =>
    simp only [imp_false] at *
    rw [arrayAt_eq_none_iff, arrayIndex_eq_none_iff, arrayIndex_eq_none_iff, arrayIndex_eq_none_iff]
    omega
  all_goals
    simp only [reduceCtorEq, false_iff]
    omega

/-- The table's last stretch of the window is mapped whole (20_memory.md R62). -/
theorem exists_reta_of_high {off : BitVec 10} (hlow : 0x200 ≤ off.toNat) (h4 : off.toNat % 4 = 0) :
    ∃ i, off = regOffset (.reta i) := by
  have hoff := off.isLt
  refine ⟨⟨(off.toNat - 0x200) / 4, by omega⟩, BitVec.eq_of_toNat_eq ?_⟩
  rw [regOffset_reta_toNat]
  simp only
  omega

-- ## Which registers a write may reach

theorem readOnly_eq_false_iff (r : Reg) :
    readOnly r = false ↔ r ≠ .status ∧ r ≠ .queue ∧ r ≠ .queues ∧ ∀ i, r ≠ .reta i := by
  cases r <;> simp [readOnly]

/-- A write to a read-only register is an access error in every state (20_memory.md R65). -/
theorem regWrite_of_readOnly {r : Reg} (hro : readOnly r = true) (v : Word) (s : State) :
    regWrite r v s = .fault .readOnlyRegister := by
  cases r with
  | status | queue | queues | reta => rfl
  | _ => cases hro

/-- A write to any other register completes in every state: a `CMD` write with the command that it runs
(20_memory.md R67, 60_exceptions.md R200). -/
theorem regWrite_of_writable {r : Reg} (hro : readOnly r = false) (v : Word) (s : State) :
    ∃ t, regWrite r v s = .next t := by
  by_cases hcmd : r = .cmd
  · subst hcmd
    obtain ⟨t, h, -⟩ := exec_completes_with_outcomeCode (decode v) (s.setCmd v)
    exact ⟨t, h⟩
  · exact regWrite_performed hcmd hro v s

-- ## Which accesses are performed

/-- An aligned word access has size 4 and an offset that is a multiple of 4 (20_memory.md R64). -/
theorem alignedWord_iff (a : Access) : a.alignedWord = true ↔ a.size = 4 ∧ a.off.toNat % 4 = 0 := by
  simp [Access.alignedWord, ← BitVec.toNat_inj, BitVec.extractLsb'_toNat]

theorem hostAccess_of_misaligned {a : Access} (h : ¬(a.size = 4 ∧ a.off.toNat % 4 = 0)) (s : State) :
    hostAccess a s = .fault .misalignedOrNotWord := by
  have ha : a.alignedWord = false := Bool.eq_false_iff.mpr (mt (alignedWord_iff a).mp h)
  simp [hostAccess, ha]

theorem hostAccess_of_unmapped {a : Access} (ha : a.size = 4 ∧ a.off.toNat % 4 = 0) (hr : regAt a.off = none)
    (s : State) : hostAccess a s = .fault .unmappedOffset := by
  simp [hostAccess, (alignedWord_iff a).mpr ha, hr]

/-- The block performs a word access to a register's offset, unless it is a write to a read-only register
(20_memory.md R65). -/
theorem performs_iff (a : Access) : a.performs = true ↔
    a.size = 4 ∧ ∃ r, a.off = regOffset r ∧ ((∃ v, a = .write a.off 4 v) → readOnly r = false) := by
  cases hr : regAt a.off with
  | none =>
    have hoff : ∀ r, a.off ≠ regOffset r := fun r h => by simp [h] at hr
    simp [Access.performs, hr, hoff]
  | some r =>
    have hoff := regOffset_of_regAt hr
    cases a with
    | read off size =>
      obtain rfl : off = regOffset r := hoff
      simp [Access.performs, Access.off, Access.size, regOffset_aligned]
    | write off size v =>
      obtain rfl : off = regOffset r := hoff
      simpa [Access.performs, Access.off, Access.size, regOffset_aligned] using Or.inl

/-- A read is performed at every register's offset. -/
@[simp] theorem performs_read (r : Reg) : (Access.read (regOffset r) 4).performs = true :=
  (performs_iff _).mpr ⟨rfl, r, rfl, by simp⟩

/-- A write is performed at the offset of every register that is not read-only. -/
@[simp] theorem performs_write (r : Reg) (v : Word) : (Access.write (regOffset r) 4 v).performs = !readOnly r := by
  simp [Access.performs, Access.off, regOffset_aligned]

/-- A performed access is a word read of a register or a word write of one that is not read-only. -/
theorem performs_cases {a : Access} (h : a.performs = true) :
    (∃ r, a = .read (regOffset r) 4) ∨ ∃ r v, a = .write (regOffset r) 4 v ∧ readOnly r = false := by
  obtain ⟨hsize, r, hoff, hwrite⟩ := (performs_iff a).mp h
  cases a with
  | read off size =>
    obtain rfl : size = 4 := hsize
    obtain rfl : off = regOffset r := hoff
    exact .inl ⟨r, rfl⟩
  | write off size v =>
    obtain rfl : size = 4 := hsize
    obtain rfl : off = regOffset r := hoff
    exact .inr ⟨r, v, rfl, hwrite ⟨v, rfl⟩⟩

/-- The two ends of an access: the block performs it and it completes, or it does not and the access error ends it
(20_memory.md R65). -/
theorem hostAccess_outcome (a : Access) (s : State) :
    (a.performs = true ∧ ∃ t, hostAccess a s = .next t) ∨ (a.performs = false ∧ ∃ f, hostAccess a s = .fault f) := by
  by_cases ha : a.size = 4 ∧ a.off.toNat % 4 = 0
  · cases hr : regAt a.off with
    | none => exact .inr ⟨by simp [Access.performs, hr], _, hostAccess_of_unmapped ha hr s⟩
    | some r =>
      have hoff := regOffset_of_regAt hr
      obtain ⟨hsize, -⟩ := ha
      cases a with
      | read off size =>
        obtain rfl : size = 4 := hsize
        obtain rfl : off = regOffset r := hoff
        exact .inl ⟨performs_read r, _, hostAccess_read r s⟩
      | write off size v =>
        obtain rfl : size = 4 := hsize
        obtain rfl : off = regOffset r := hoff
        rw [performs_write, hostAccess_write]
        cases hro : readOnly r with
        | true => exact .inr ⟨rfl, _, regWrite_of_readOnly hro v s⟩
        | false => exact .inl ⟨rfl, regWrite_of_writable hro v s⟩
  · exact .inr ⟨by simp [Access.performs, mt (alignedWord_iff a).mp ha], _, hostAccess_of_misaligned ha s⟩

/-- The block performs exactly the accesses that complete (20_memory.md R65). -/
theorem hostAccess_completes_iff (a : Access) (s : State) :
    (∃ t, hostAccess a s = .next t) ↔ a.performs = true := by
  obtain ⟨hp, h⟩ | ⟨hp, f, h⟩ := hostAccess_outcome a s
  · exact iff_of_true h hp
  · simp [h, hp]

-- ## The statements

/-- Settles O8: the window's base is a multiple of its size. -/
theorem hostAddressReachesItsOffset : Obligations.HostAddressReachesItsOffset := by
  intro off hoff
  simp only [hostOffset, Config.base, Config.windowBytes, BitVec.toNat_ofNat]
  omega

/-- Settles O9. -/
theorem registerMap : Obligations.RegisterMap :=
  ⟨rfl, rfl, rfl, rfl, rfl, rfl, rfl, rfl, rfl, rfl, rfl, fun w => regAt_regOffset (.key w),
    fun w => regAt_regOffset (.data w), fun i => regAt_regOffset (.reta i), regAt_eq_none_iff⟩

/-- Settles O10. -/
theorem everyRegisterHasOneOffset : Obligations.EveryRegisterHasOneOffset :=
  fun _ r => ⟨regOffset_of_regAt, fun h => h ▸ regAt_regOffset r⟩

/-- Settles O11. -/
theorem misalignedOrNarrowAccessFaults : Obligations.MisalignedOrNarrowAccessFaults := by
  intro s a rest hb hbad
  rw [step_of_bus_cons hb]
  exact hostAccess_of_misaligned (by omega) _

/-- Settles O12: each read-only offset is the offset of a read-only register. -/
theorem unmappedAndReadOnlyAccessesFault : Obligations.UnmappedAndReadOnlyAccessesFault := by
  refine fun s off v rest h4 => ⟨fun hr => ⟨?_, ?_⟩, fun hoff => ?_⟩
  · exact hostAccess_of_unmapped (a := .read off 4) ⟨rfl, h4⟩ hr { s with bus := rest }
  · exact hostAccess_of_unmapped (a := .write off 4 v) ⟨rfl, h4⟩ hr { s with bus := rest }
  · obtain rfl | rfl | rfl | hhigh := hoff
    · exact step_write s .status v rest
    · exact step_write s .queue v rest
    · exact step_write s .queues v rest
    · obtain ⟨i, rfl⟩ := exists_reta_of_high hhigh h4
      exact step_write s (.reta i) v rest

/-- Settles O13: an access completes exactly when the block performs it. -/
theorem accessCompletesExactlyWhenPerformed : Obligations.AccessCompletesExactlyWhenPerformed := by
  intro s a rest hb
  have hiff := (hostAccess_completes_iff a (s.setBus rest)).trans (performs_iff a)
  simp only [readOnly_eq_false_iff] at hiff
  rw [step_of_bus_cons hb, perform_access]
  exact ⟨hiff, (hostAccess_outcome a _).imp And.right And.right⟩

end Sys2Proof.Machine
end

section
/-! SUPPORT. What a host reads (20_memory.md R66): the value of every register after each named update, the fields of
the narrow registers, and that the registers are all that the block holds. -/

namespace Sys2Proof.Machine

-- ## Bits of a word

/-- The low half of a word, read back zero-extended, is the word with its high half cleared (10_state.md R37). -/
theorem port_readback (v : Word) : (v.extractLsb' 0 16).setWidth 32 = v &&& 0x0000FFFF := by
  apply BitVec.eq_of_toNat_eq
  rw [port_readback_toNat, BitVec.toNat_and]
  exact (Nat.and_two_pow_sub_one_eq_mod v.toNat 16).symm

/-- A register narrower than a word reads 0 in the bits it does not have (20_memory.md R66). -/
theorem extractLsb'_setWidth_high {n : Nat} (x : BitVec n) (m : Nat) : (x.setWidth 32).extractLsb' n m = 0 := by
  apply BitVec.eq_of_getLsbD_eq
  intro i hi
  simp [BitVec.getLsbD_of_ge]

/-- A register narrower than a word reads the number that it stores. -/
theorem setWidth_word_toNat {n : Nat} (x : BitVec n) (hn : n ≤ 32) : (x.setWidth 32 : Word).toNat = x.toNat := by
  rw [BitVec.toNat_setWidth]
  exact Nat.mod_eq_of_lt (Nat.lt_of_lt_of_le x.isLt (Nat.pow_le_pow_right (by decide) hn))

theorem setWidth_word_inj {n : Nat} {x y : BitVec n} (hn : n ≤ 32) :
    (x.setWidth 32 : Word) = y.setWidth 32 ↔ x = y := by
  rw [← BitVec.toNat_inj, setWidth_word_toNat x hn, setWidth_word_toNat y hn, BitVec.toNat_inj]

-- ## The fields of `STATUS`

/-- `ERR` in bits 7:0 (10_state.md R24). -/
theorem statusWord_err (s : State) : (statusWord s).extractLsb' 0 8 = s.err := by
  apply BitVec.eq_of_getLsbD_eq
  intro i hi
  simp [statusWord_getLsbD, hi]

/-- `RETA_VALID` in bit 8 (10_state.md R24). -/
theorem statusWord_retaValid (s : State) : (statusWord s).getLsbD 8 = s.retaValid := by
  rw [statusWord_getLsbD]
  rfl

/-- `KEY_LOADED` in bits 25:16 (10_state.md R24). -/
theorem statusWord_keyLoaded (s : State) : (statusWord s).extractLsb' 16 10 = s.keyLoaded := by
  apply BitVec.eq_of_getLsbD_eq
  intro i hi
  rw [BitVec.getLsbD_extractLsb', statusWord_getLsbD, if_neg (by omega), if_neg (by omega), if_neg (by omega),
    if_pos (by omega)]
  simp [hi]

/-- The bits between `RETA_VALID` and `KEY_LOADED` are hardwired 0 (10_state.md R24). -/
theorem statusWord_low_gap (s : State) : (statusWord s).extractLsb' 9 7 = 0 := by
  apply BitVec.eq_of_getLsbD_eq
  intro i hi
  rw [BitVec.getLsbD_extractLsb', statusWord_getLsbD, if_neg (by omega), if_neg (by omega), if_pos (by omega)]
  simp

/-- So are the bits above `KEY_LOADED` (10_state.md R24). -/
theorem statusWord_high_gap (s : State) : (statusWord s).extractLsb' 26 6 = 0 := by
  apply BitVec.eq_of_getLsbD_eq
  intro i hi
  rw [BitVec.getLsbD_extractLsb', statusWord_getLsbD, if_neg (by omega), if_neg (by omega), if_neg (by omega),
    if_neg (by omega)]
  simp

-- ## The registers after each named update

section
variable (s : State) (v : Word) (r : Reg)

/-- Neither field of the model's own is a register (10_state.md R20). -/
theorem regRead_outside (es : List Event) (l : List Word) :
    regRead { s with bus := es, returned := l } r = regRead s r := by cases r <;> rfl

@[simp] theorem regRead_setBus (es : List Event) : regRead (s.setBus es) r = regRead s r := by cases r <;> rfl

@[simp] theorem regRead_pushReturned : regRead (s.pushReturned v) r = regRead s r := by cases r <;> rfl

theorem regRead_setCmd : regRead (s.setCmd v) r = if r = .cmd then v else regRead s r := by cases r <;> rfl

theorem regRead_setLen : regRead (s.setLen v) r = if r = .len then v else regRead s r := by cases r <;> rfl

theorem regRead_setHash : regRead (s.setHash v) r = if r = .hash then v else regRead s r := by cases r <;> rfl

theorem regRead_setCpus : regRead (s.setCpus v) r = if r = .cpus then v else regRead s r := by cases r <;> rfl

theorem regRead_setSrcIp : regRead (s.setSrcIp v) r = if r = .srcIp then v else regRead s r := by cases r <;> rfl

theorem regRead_setDstIp : regRead (s.setDstIp v) r = if r = .dstIp then v else regRead s r := by cases r <;> rfl

theorem regRead_setQueue (q : BitVec 7) :
    regRead (s.setQueue q) r = if r = .queue then q.setWidth 32 else regRead s r := by cases r <;> rfl

/-- A port keeps the low half of the word (10_state.md R37). -/
theorem regRead_setSrcPort :
    regRead (s.setSrcPort v) r = if r = .srcPort then v &&& 0x0000FFFF else regRead s r := by
  cases r with
  | srcPort => exact port_readback v
  | _ => rfl

theorem regRead_setDstPort :
    regRead (s.setDstPort v) r = if r = .dstPort then v &&& 0x0000FFFF else regRead s r := by
  cases r with
  | dstPort => exact port_readback v
  | _ => rfl

theorem regRead_setData (w : Fin 10) : regRead (s.setData w v) r = if r = .data w then v else regRead s r := by
  cases r with
  | data w' => simp [regRead, Vector.getElem_set, Fin.ext_iff, eq_comm]
  | _ => rfl

variable {r}

/-- `KEY_LOADED` stands in `STATUS`, so that register is left aside (10_state.md R24). -/
theorem regRead_loadKey (w : Fin 10) (hr : r ≠ .status) :
    regRead (s.loadKey w v) r = if r = .key w then v else regRead s r := by
  cases r with
  | key w' => simp [regRead, Vector.getElem_set, Fin.ext_iff, eq_comm]
  | status => exact absurd rfl hr
  | _ => rfl

/-- `ERR` stands in `STATUS` alone (10_state.md R24). -/
theorem regRead_setErr (c : BitVec 8) (hr : r ≠ .status) : regRead (s.setErr c) r = regRead s r := by
  cases r with
  | status => exact absurd rfl hr
  | _ => rfl

/-- A new table shows in `QUEUES`, in the entries, and in `STATUS` (10_state.md R26, R32, R34). -/
theorem regRead_installTable (t : Vector (BitVec 7) 128) (hr : r ≠ .status) (hq : r ≠ .queues)
    (hreta : ∀ i, r ≠ .reta i) : regRead (s.installTable v t) r = regRead s r := by
  cases r with
  | status => exact absurd rfl hr
  | queues => exact absurd rfl hq
  | reta i => exact absurd rfl (hreta i)
  | _ => rfl

end

-- ## Reads and writes at the bus

/-- A step on a waiting word read at a register's offset hands out its value and changes no register
(20_memory.md R66). -/
theorem step_read (s : State) (r : Reg) (rest : List Event) :
    step { s with bus := .access (.read (regOffset r) 4) :: rest } =
      .next { s with bus := rest, returned := s.returned ++ [regRead s r] } := by
  refine (hostAccess_read r (s.setBus rest)).trans ?_
  rw [regRead_setBus]
  rfl

/-- After a write to a register other than `CMD`, that register reads the word as it stores it, and every register but
`STATUS` and itself reads as before (20_memory.md R66, R67). -/
theorem regRead_regWrite {r : Reg} {v : Word} {s t : State} (hcmd : r ≠ .cmd) (h : regWrite r v s = .next t) (r' : Reg)
    (hr' : r' ≠ .status) : regRead t r' =
      if r' = r then (if r = .srcPort ∨ r = .dstPort then v &&& 0x0000FFFF else v) else regRead s r' := by
  cases r with
  | cmd => exact absurd rfl hcmd
  | status | queue | queues | reta => cases h
  | len => cases h; exact regRead_setLen s v r'
  | hash => cases h; exact regRead_setHash s v r'
  | cpus => cases h; exact regRead_setCpus s v r'
  | srcIp => cases h; exact regRead_setSrcIp s v r'
  | dstIp => cases h; exact regRead_setDstIp s v r'
  | srcPort => cases h; exact regRead_setSrcPort s v r'
  | dstPort => cases h; exact regRead_setDstPort s v r'
  | key w => cases h; exact regRead_loadKey s v w hr'
  | data w => cases h; exact regRead_setData s v r' w

/-- A write to a register that is neither `CMD` nor a key word leaves `STATUS` (10_state.md R24). -/
theorem regRead_status_regWrite {r : Reg} {v : Word} {s t : State} (hcmd : r ≠ .cmd) (hkey : ∀ w, r ≠ .key w)
    (h : regWrite r v s = .next t) : regRead t .status = regRead s .status := by
  cases r with
  | cmd => exact absurd rfl hcmd
  | key w => exact absurd rfl (hkey w)
  | status | queue | queues | reta => cases h
  | _ => cases h; rfl

-- ## The registers are the whole state

/-- Two states whose registers read the same hold the same fields, the model's own two apart (10_state.md R20). -/
theorem eq_of_regRead_eq {s t : State} (h : ∀ r, regRead t r = regRead s r) :
    t = { s with bus := t.bus, returned := t.returned } := by
  have hstatus : statusWord t = statusWord s := h .status
  have herr : t.err = s.err := by rw [← statusWord_err, hstatus, statusWord_err]
  have hvalid : t.retaValid = s.retaValid := by rw [← statusWord_retaValid, hstatus, statusWord_retaValid]
  have hloaded : t.keyLoaded = s.keyLoaded := by rw [← statusWord_keyLoaded, hstatus, statusWord_keyLoaded]
  have hcmd : t.cmd = s.cmd := h .cmd
  have hlen : t.len = s.len := h .len
  have hhash : t.hash = s.hash := h .hash
  have hcpus : t.cpus = s.cpus := h .cpus
  have hqueues : t.queues = s.queues := h .queues
  have hsrcIp : t.srcIp = s.srcIp := h .srcIp
  have hdstIp : t.dstIp = s.dstIp := h .dstIp
  have hqueue : t.queue = s.queue := (setWidth_word_inj (by decide)).mp (h .queue)
  have hsrcPort : t.srcPort = s.srcPort := (setWidth_word_inj (by decide)).mp (h .srcPort)
  have hdstPort : t.dstPort = s.dstPort := (setWidth_word_inj (by decide)).mp (h .dstPort)
  have hkey : t.key = s.key := Vector.ext fun w hw => h (.key ⟨w, hw⟩)
  have hdata : t.data = s.data := Vector.ext fun w hw => h (.data ⟨w, hw⟩)
  have hreta : t.reta = s.reta := Vector.ext fun i hi => (setWidth_word_inj (by decide)).mp (h (.reta ⟨i, hi⟩))
  rw [← herr, ← hvalid, ← hloaded, ← hcmd, ← hlen, ← hhash, ← hcpus, ← hqueues, ← hsrcIp, ← hdstIp, ← hqueue,
    ← hsrcPort, ← hdstPort, ← hkey, ← hdata, ← hreta]

-- ## Byte order

/-- Word `w` of the packed key, from the most significant, is `KEYw` (20_memory.md R69). -/
theorem keyWord_joinKey (k : Vector Word 10) (w : Fin 10) : keyWord (joinKey k) w = k[w] := by
  have hw := w.isLt
  apply BitVec.eq_of_getLsbD_eq
  intro p hp
  have hword : 9 - (288 - 32 * w.val + p) / 32 = w := by omega
  have hbit : (288 - 32 * w.val + p) % 32 = p := by omega
  simp [keyWord, hp, joinKey_getLsbD k _ (show 288 - 32 * w.val + p < 320 by omega), hword, hbit]

/-- Byte `i` of the packed key, from the most significant, is `KeyByte(i)` (00_scope.md R10). -/
theorem keyValue_byte (s : State) {i : Nat} (hi : i < 40) :
    (keyValue s).extractLsb' (312 - 8 * i) 8 = keyByte s i := by
  apply BitVec.eq_of_getLsbD_eq
  intro p hp
  have hword : 9 - (312 - 8 * i + p) / 32 = i / 4 := by omega
  have hbit : (312 - 8 * i + p) % 32 = 24 - 8 * (i % 4) + p := by omega
  simp [keyValue, keyByte, arrayByte, wordByte, hp, joinKey_getLsbD s.key _ (show 312 - 8 * i + p < 320 by omega),
    hword, hbit, show i / 4 < 10 by omega]

-- ## The statements

/-- Settles O14. -/
theorem readReturnsTheRegister : Obligations.ReadReturnsTheRegister := by
  refine ⟨fun s r rest => ⟨step_read s r rest, ?_⟩, fun s => ?_, fun s => ?_⟩
  · have hread : regRead (s.pushReturned (regRead s r)) r = regRead s r := regRead_pushReturned s _ r
    have hagain := step_read (s.pushReturned (regRead s r)) r rest
    rw [hread, State.pushReturned_returned, List.append_assoc] at hagain
    exact runsTo_succ.mpr ⟨_, step_read s r _, runsTo_succ.mpr ⟨_, hagain, runsTo_zero.mpr rfl⟩⟩
  · exact ⟨statusWord_low_gap s, statusWord_high_gap s, extractLsb'_setWidth_high s.queue 25,
      fun i => extractLsb'_setWidth_high s.reta[i] 25, extractLsb'_setWidth_high s.srcPort 16,
      extractLsb'_setWidth_high s.dstPort 16⟩
  · exact ⟨rfl, rfl, rfl, rfl, rfl, rfl, rfl, fun _ => rfl, fun _ => rfl⟩

/-- Settles O15. -/
theorem fieldsReadWhereTheyStand : Obligations.FieldsReadWhereTheyStand :=
  fun s => ⟨statusWord_err s, statusWord_retaValid s, statusWord_keyLoaded s, setWidth_word_toNat s.queue (by decide),
    fun i => setWidth_word_toNat s.reta[i] (by decide), setWidth_word_toNat s.srcPort (by decide),
    setWidth_word_toNat s.dstPort (by decide)⟩

/-- Settles O16. -/
theorem registersAreTheWholeState : Obligations.RegistersAreTheWholeState := fun _ _ => eq_of_regRead_eq

/-- Settles O19. -/
theorem readSeesTheLatestWrite : Obligations.ReadSeesTheLatestWrite := by
  refine fun s t r v hcmd h => ⟨?_, fun r' hr' hstatus => ?_, fun hkey => regRead_status_regWrite hcmd hkey h⟩
  · have hwritable : r ≠ .status := by
      rintro rfl
      cases h
    rw [regRead_regWrite hcmd h r hwritable, if_pos rfl]
  · rw [regRead_regWrite hcmd h r' hstatus, if_neg hr']

/-- Settles O21. -/
theorem keyValueIsBigEndian : Obligations.KeyValueIsBigEndian :=
  fun s => ⟨fun _ => keyValue_byte s, keyWord_joinKey s.key, fun w _ => dataByte_word s w⟩

end Sys2Proof.Machine
end

section
/-! SUPPORT. The operands of the commands (30_encoding.md R93): what a command reads, what it writes, and what it
leaves. -/

namespace Sys2Proof.Machine

-- ## What a command leaves

/-- Every command reports in `STATUS` (30_encoding.md R93). -/
theorem ne_status_of_mayWrite_eq_false {i : Instr} {r : Reg} (h : mayWrite i r = false) : r ≠ .status := by
  rintro rfl
  cases i <;> simp [mayWrite] at h

/-- A register outside a command's row of the operand table reads as before (30_encoding.md R93). -/
theorem regRead_exec_of_mayWrite_eq_false {i : Instr} {s t : State} {r : Reg} (h : exec i s = .next t)
    (hr : mayWrite i r = false) : regRead t r = regRead s r := by
  have hst := ne_status_of_mayWrite_eq_false hr
  cases i with
  | nop | illegal => cases h; exact regRead_setErr s _ hst
  | hash =>
    have hhash : r ≠ .hash := by
      rintro rfl
      cases hr
    obtain ⟨-, rfl⟩ | ⟨-, -, rfl⟩ | ⟨-, -, rfl⟩ := execHash_next h
    · exact regRead_setErr s _ hst
    · exact regRead_setErr s _ hst
    · rw [regRead_setErr _ _ hst, regRead_setHash, if_neg hhash]
  | encodePair =>
    cases h
    obtain ⟨⟨⟨h0, h1⟩, hlen⟩, -⟩ : ((r ≠ .data 0 ∧ r ≠ .data 1) ∧ r ≠ .len) ∧ r ≠ .status := by
      simpa [mayWrite] using hr
    rw [regRead_setErr _ _ hst]
    simp [regRead_setLen, State.putAddresses, regRead_setData, h0, h1, hlen]
  | encodeTuple =>
    cases h
    obtain ⟨⟨⟨⟨h0, h1⟩, h2⟩, hlen⟩, -⟩ :
        (((r ≠ .data 0 ∧ r ≠ .data 1) ∧ r ≠ .data 2) ∧ r ≠ .len) ∧ r ≠ .status := by
      simpa [mayWrite] using hr
    rw [regRead_setErr _ _ hst]
    simp [regRead_setLen, State.putAddresses, regRead_setData, h0, h1, h2, hlen]
  | buildReta =>
    have hqueues : r ≠ .queues := by
      rintro rfl
      cases hr
    have hreta : ∀ i, r ≠ .reta i := by
      rintro i rfl
      cases hr
    obtain ⟨-, rfl⟩ | ⟨-, rfl⟩ := execBuildReta_next h
    · exact regRead_setErr s _ hst
    · rw [regRead_setErr _ _ hst, regRead_installTable _ _ _ hst hqueues hreta]
  | queueOf =>
    have hqueue : r ≠ .queue := by
      rintro rfl
      cases hr
    obtain ⟨-, rfl⟩ | ⟨-, rfl⟩ := execQueueOf_next h
    · exact regRead_setErr s _ hst
    · rw [regRead_setErr _ _ hst, regRead_setQueue, if_neg hqueue]

theorem exec_bus {i : Instr} {s t : State} (h : exec i s = .next t) : t.bus = s.bus :=
  (congrArg State.bus (exec_frame h) :)

theorem exec_returned {i : Instr} {s t : State} (h : exec i s = .next t) : t.returned = s.returned :=
  (congrArg State.returned (exec_frame h) :)

-- ## What a command reads

/-- Every command overwrites `ERR`, and none asks for it (60_exceptions.md R206). -/
theorem exec_of_err (i : Instr) (s : State) (e : BitVec 8) : exec i { s with err := e } = exec i s := by
  cases i <;> rfl

/-- No command asks for `CMD` or for a field of the model's own, and each keeps them (10_state.md R22). -/
theorem exec_of_outside {i : Instr} {s t : State} (c : Word) (es : List Event) (l : List Word)
    (h : exec i s = .next t) :
    exec i { s with cmd := c, bus := es, returned := l } = .next { t with cmd := c, bus := es, returned := l } := by
  cases i with
  | nop | encodePair | encodeTuple | illegal => cases h; rfl
  | hash =>
    obtain ⟨hk, rfl⟩ | ⟨hk, hn, rfl⟩ | ⟨hk, hn, rfl⟩ := execHash_next h
    · exact exec_hash_of_keyLoaded_ne (s := { s with cmd := c, bus := es, returned := l }) hk
    · exact exec_hash_of_too_long (s := { s with cmd := c, bus := es, returned := l }) hk hn
    · exact exec_hash_of_loaded (s := { s with cmd := c, bus := es, returned := l }) hk hn
  | buildReta =>
    obtain ⟨hc, rfl⟩ | ⟨hc, rfl⟩ := execBuildReta_next h
    · exact exec_buildReta_of_cpus_zero (s := { s with cmd := c, bus := es, returned := l }) hc
    · exact exec_buildReta_of_cpus_ne_zero (s := { s with cmd := c, bus := es, returned := l }) hc
  | queueOf =>
    obtain ⟨hv, rfl⟩ | ⟨hv, rfl⟩ := execQueueOf_next h
    · exact exec_queueOf_of_no_table (s := { s with cmd := c, bus := es, returned := l }) hv
    · exact exec_queueOf_of_table (s := { s with cmd := c, bus := es, returned := l }) hv

/-- The outcome code depends on the command's operands alone (30_encoding.md R93). -/
theorem outcomeCode_congr {i : Instr} {s s' : State} (h : SameOperands i s s') :
    outcomeCode i s' = outcomeCode i s := by
  cases i with
  | nop | encodePair | encodeTuple | illegal => rfl
  | hash =>
    obtain ⟨hk, hlen, -, -⟩ := h
    simp only [outcomeCode, hk, hlen]
  | buildReta => simp only [outcomeCode, show s.cpus = s'.cpus from h]
  | queueOf =>
    obtain ⟨hv, -, -⟩ := h
    simp only [outcomeCode, hv]

/-- What a successful command writes depends on its operands alone (30_encoding.md R93). -/
theorem regRead_exec_congr {i : Instr} {s s' t t' : State} (h : SameOperands i s s') (ht : exec i s = .next t)
    (ht' : exec i s' = .next t') (herr : t.err = 0) {r : Reg} (hr : mayWrite i r = true) (hst : r ≠ .status) :
    regRead t' r = regRead t r := by
  cases i with
  | nop | illegal => exact absurd (beq_iff_eq.mp hr) hst
  | hash =>
    obtain ⟨hloaded, hlen, hkey, hdata⟩ := h
    obtain rfl : r = .hash := by simpa [mayWrite, hst] using hr
    obtain ⟨-, rfl⟩ | ⟨-, -, rfl⟩ | ⟨hk, hn, rfl⟩ := execHash_next ht
    · cases herr
    · cases herr
    · rw [exec_hash_of_loaded (hloaded ▸ hk) (hlen ▸ hn)] at ht'
      cases ht'
      show toeplitz (joinKey s'.key) (hashInput s' s'.len.toNat) = toeplitz (joinKey s.key) (hashInput s s.len.toNat)
      rw [← hkey, ← hlen, hashInput_congr fun i hi => (hdata i hi).symm]
  | encodePair =>
    obtain ⟨hsrc, hdst⟩ := h
    cases ht
    cases ht'
    obtain (rfl | rfl) | rfl : (r = .data 0 ∨ r = .data 1) ∨ r = .len := by simpa [mayWrite, hst] using hr
    all_goals
      rw [regRead_setErr _ _ hst, regRead_setErr _ _ hst]
      simp [regRead_setLen, State.putAddresses, regRead_setData, hsrc, hdst]
  | encodeTuple =>
    obtain ⟨hsrc, hdst, hsp, hdp⟩ := h
    cases ht
    cases ht'
    obtain ((rfl | rfl) | rfl) | rfl : ((r = .data 0 ∨ r = .data 1) ∨ r = .data 2) ∨ r = .len := by
      simpa [mayWrite, hst] using hr
    all_goals
      rw [regRead_setErr _ _ hst, regRead_setErr _ _ hst]
      simp [regRead_setLen, State.putAddresses, regRead_setData, portPair, hsrc, hdst, hsp, hdp]
  | buildReta =>
    have hcpus : s.cpus = s'.cpus := h
    obtain ⟨-, rfl⟩ | ⟨hc, rfl⟩ := execBuildReta_next ht
    · cases herr
    · rw [exec_buildReta_of_cpus_ne_zero (hcpus ▸ hc)] at ht'
      cases ht'
      cases r with
      | status => exact absurd rfl hst
      | queues =>
        show BitVec.ofNat 32 (queueCount s'.cpus) = BitVec.ofNat 32 (queueCount s.cpus)
        rw [hcpus]
      | reta j =>
        show ((retaTable (queueCount s'.cpus))[j]).setWidth 32 = ((retaTable (queueCount s.cpus))[j]).setWidth 32
        rw [hcpus]
      | _ => cases hr
  | queueOf =>
    obtain ⟨hvalid, hhash, hentry⟩ := h
    obtain rfl : r = .queue := by simpa [mayWrite, hst] using hr
    obtain ⟨-, rfl⟩ | ⟨hv, rfl⟩ := execQueueOf_next ht
    · cases herr
    · rw [exec_queueOf_of_table (hvalid ▸ hv)] at ht'
      cases ht'
      show (s'.reta[retaSlot s'.hash]).setWidth 32 = (s.reta[retaSlot s.hash]).setWidth 32
      simp only [← hhash, hentry]

-- ## The statements

/-- Settles O27. -/
theorem noCommandReadsErr : Obligations.NoCommandReadsErr := exec_of_err

/-- Settles O28. -/
theorem noCommandReadsCmdOrTheBus : Obligations.NoCommandReadsCmdOrTheBus := fun _ _ _ => exec_of_outside

/-- Settles O44: the frame of the registers, then that of the flags and of the model's own fields. -/
theorem commandsLeaveOtherRegisters : Obligations.CommandsLeaveOtherRegisters := by
  refine fun i s t h => ⟨fun _ => regRead_exec_of_mayWrite_eq_false h, exec_keyLoaded h, fun hi => ?_, fun hv => ?_,
    exec_bus h, exec_returned h⟩
  · simp [exec_retaValid h, hi]
  · simp [exec_retaValid h, hv]

/-- Settles O45: equal operands give equal outcome codes, and on success equal results. -/
theorem commandsReadOnlyTheirOperands : Obligations.CommandsReadOnlyTheirOperands := by
  intro i s s' h
  obtain ⟨t, ht, herr⟩ := exec_completes_with_outcomeCode i s
  obtain ⟨t', ht', herr'⟩ := exec_completes_with_outcomeCode i s'
  exact ⟨t, t', ht, ht', by rw [herr, herr', outcomeCode_congr h], fun hz _ => regRead_exec_congr h ht ht' hz⟩

end Sys2Proof.Machine
end

section
/-! SUPPORT. What one step changes, over every event: the writers of each register (10_state.md R23, R28 to R37), `CMD`
and `ERR`, and the invariant of the registers. -/

namespace Sys2Proof.Machine

-- ## The writers of a register

theorem mayWrite_len_iff (i : Instr) : mayWrite i .len = true ↔ i = .encodePair ∨ i = .encodeTuple := by
  cases i <;> simp [mayWrite]

theorem mayWrite_hash_iff (i : Instr) : mayWrite i .hash = true ↔ i = .hash := by cases i <;> simp [mayWrite]

theorem mayWrite_queue_iff (i : Instr) : mayWrite i .queue = true ↔ i = .queueOf := by cases i <;> simp [mayWrite]

theorem mayWrite_queues_iff (i : Instr) : mayWrite i .queues = true ↔ i = .buildReta := by cases i <;> simp [mayWrite]

theorem mayWrite_reta_iff (i : Instr) (j : Fin 128) : mayWrite i (.reta j) = true ↔ i = .buildReta := by
  cases i <;> simp [mayWrite]

/-- ENCODE_PAIR writes the first two data words, ENCODE_TUPLE the first three (30_encoding.md R93). -/
theorem mayWrite_data_iff (i : Instr) (w : Fin 10) :
    mayWrite i (.data w) = true ↔ (w.val < 2 ∧ i = .encodePair) ∨ (w.val < 3 ∧ i = .encodeTuple) := by
  cases i with
  | encodePair => revert w; decide
  | encodeTuple => revert w; decide
  | _ => simp [mayWrite]

/-- The registers that no command writes (30_encoding.md R93). -/
def hostWritten : Reg → Bool
  | .cmd | .cpus | .srcIp | .dstIp | .srcPort | .dstPort | .key _ => true
  | _ => false

theorem mayWrite_of_hostWritten {r : Reg} (hr : hostWritten r = true) (i : Instr) : mayWrite i r = false := by
  cases r <;> cases hr <;> cases i <;> rfl

/-- The outcome code asks neither for `CMD` nor for the bus. -/
theorem outcomeCode_setBus_setCmd (i : Instr) (s : State) (es : List Event) (v : Word) :
    outcomeCode i ((s.setBus es).setCmd v) = outcomeCode i s := by
  cases i <;> rfl

/-- HASH succeeds with the whole key and a length of at most 40 bytes (40_toeplitz.md R120). -/
theorem outcomeCode_hash_eq_zero_iff (s : State) :
    outcomeCode .hash s = 0 ↔ s.keyLoaded = 0b1111111111 ∧ s.len.toNat ≤ 40 := by
  by_cases hk : s.keyLoaded = 0b1111111111#10 <;> by_cases hn : s.len.toNat ≤ 40 <;> simp [outcomeCode, hk, hn]

/-- Two tables that differ do so in some entry. -/
theorem exists_getElem_ne {a b : Vector (BitVec 7) 128} (h : a ≠ b) : ∃ j : Fin 128, a[j] ≠ b[j] := by
  by_contra hno
  exact h (Vector.ext fun j hj => not_not.mp fun hne => hno ⟨⟨j, hj⟩, hne⟩)

/-- A host write that changes a register other than `STATUS` is a write to that register, or a `CMD` write of a command
that may write it and succeeds (60_exceptions.md R203). -/
theorem regWrite_writer {r : Reg} {v : Word} {s t : State} (h : regWrite r v s = .next t) {r' : Reg}
    (hst : r' ≠ .status) (hne : regRead t r' ≠ regRead s r') :
    r = r' ∨ (r = .cmd ∧ mayWrite (decode v) r' = true ∧ outcomeCode (decode v) (s.setCmd v) = 0) := by
  by_cases hcmd : r = .cmd
  · subst hcmd
    by_cases hr' : r' = .cmd
    · exact .inl hr'.symm
    have hexec : exec (decode v) (s.setCmd v) = .next t := h
    have hset : regRead (s.setCmd v) r' = regRead s r' := by rw [regRead_setCmd, if_neg hr']
    refine .inr ⟨rfl, ?_, ?_⟩
    · by_contra hmay
      exact hne ((regRead_exec_of_mayWrite_eq_false hexec (Bool.eq_false_iff.mpr hmay)).trans hset)
    · obtain ⟨-, hfail⟩ | ⟨hcode, -⟩ := exec_outcome (decode v) (s.setCmd v)
      · obtain rfl := Host.Outcome.next.inj (hexec.symm.trans hfail)
        exact absurd ((regRead_setErr (s.setCmd v) _ hst).trans hset) hne
      · exact hcode
  · by_contra hno
    obtain ⟨hr, -⟩ := not_or.mp hno
    exact hne (by rw [regRead_regWrite hcmd h r' hst, if_neg (Ne.symm hr)])

/-- A register other than `STATUS` that a step changes, outside a reset, was written by the host or by a command that
succeeds (10_state.md R28 to R37). -/
theorem step_writer {s t : State} (h : step s = .next t) (hreset : s.nextEvent Event.isReset = false) {r : Reg}
    (hst : r ≠ .status) (hne : regRead t r ≠ regRead s r) :
    (readOnly r = false ∧ s.nextEvent (Event.writes r) = true) ∨
    ∃ i, s.nextEvent (Event.isWrite .cmd (encode i)) = true ∧ mayWrite i r = true ∧ outcomeCode i s = 0 := by
  obtain ⟨hreset', -⟩ | ⟨-, -, -, ht⟩ | ⟨r', v, rest, hb, hw⟩ := step_by_event h
  · rw [hreset] at hreset'
    cases hreset'
  · rw [ht] at hne
    exact absurd (regRead_outside s r t.bus t.returned) hne
  · obtain rfl | ⟨rfl, hmay, hcode⟩ := regWrite_writer hw hst (by rwa [regRead_setBus])
    · refine .inl ⟨?_, by simp [nextEvent_of_bus_cons hb]⟩
      by_contra hro
      rw [regWrite_of_readOnly (Bool.eq_true_of_not_eq_false hro)] at hw
      cases hw
    · rw [outcomeCode_setBus_setCmd] at hcode
      exact .inr ⟨decode v, by simp [nextEvent_of_bus_cons hb, encode_decode], hmay, hcode⟩

/-- A register that no command writes changes only by a host write to it. -/
theorem step_writer_of_hostWritten {s t : State} (h : step s = .next t) (hreset : s.nextEvent Event.isReset = false)
    {r : Reg} (hr : hostWritten r = true) (hne : regRead t r ≠ regRead s r) : s.nextEvent (Event.writes r) = true := by
  have hst : r ≠ .status := by
    rintro rfl
    cases hr
  obtain ⟨-, hw⟩ | ⟨i, -, hmay, -⟩ := step_writer h hreset hst hne
  · exact hw
  · rw [mayWrite_of_hostWritten hr] at hmay
    cases hmay

/-- A read-only register changes only by a command that succeeds. -/
theorem step_writer_of_readOnly {s t : State} (h : step s = .next t) (hreset : s.nextEvent Event.isReset = false)
    {r : Reg} (hr : readOnly r = true) (hst : r ≠ .status) (hne : regRead t r ≠ regRead s r) :
    ∃ i, s.nextEvent (Event.isWrite .cmd (encode i)) = true ∧ mayWrite i r = true ∧ outcomeCode i s = 0 := by
  obtain ⟨hro, -⟩ | hcmd := step_writer h hreset hst hne
  · rw [hr] at hro
    cases hro
  · exact hcmd

/-- The table and its count of queues change only by a BUILD_RETA that succeeds (42_reta.md R160). -/
theorem step_writer_of_table {s t : State} (h : step s = .next t) (hreset : s.nextEvent Event.isReset = false)
    (hne : t.queues ≠ s.queues ∨ t.reta ≠ s.reta) : s.nextEvent (Event.isWrite .cmd 4) = true ∧ s.cpus ≠ 0 := by
  obtain ⟨i, hi, rfl, hcode⟩ : ∃ i, s.nextEvent (Event.isWrite .cmd (encode i)) = true ∧ i = .buildReta ∧
      outcomeCode i s = 0 := by
    obtain hqueues | hreta := hne
    · simpa only [mayWrite_queues_iff] using step_writer_of_readOnly h hreset (r := .queues) rfl (by decide) hqueues
    · obtain ⟨j, hj⟩ := exists_getElem_ne hreta
      simpa only [mayWrite_reta_iff] using
        step_writer_of_readOnly h hreset (r := .reta j) rfl (by simp) (mt (setWidth_word_inj (by decide)).mp hj)
  exact ⟨hi, by simpa [outcomeCode] using hcode⟩

-- ## `CMD` and `ERR`

/-- A host write changes `CMD` only as a `CMD` write (10_state.md R23). -/
theorem regWrite_cmd {r : Reg} {v : Word} {s t : State} (h : regWrite r v s = .next t) :
    t.cmd = if r = .cmd then v else s.cmd := by
  by_cases hcmd : r = .cmd
  · subst hcmd
    have hexec : exec (decode v) (s.setCmd v) = .next t := h
    exact (congrArg State.cmd (exec_frame hexec) :)
  · rw [if_neg hcmd]
    exact (regRead_regWrite hcmd h .cmd (by decide)).trans (if_neg (Ne.symm hcmd))

/-- A host write changes `ERR` only as a `CMD` write (10_state.md R25). -/
theorem regWrite_err {r : Reg} {v : Word} {s t : State} (hcmd : r ≠ .cmd) (h : regWrite r v s = .next t) :
    t.err = s.err := by
  cases r with
  | cmd => exact absurd rfl hcmd
  | status | queue | queues | reta => cases h
  | _ => cases h; rfl

/-- A reset is no write. -/
theorem isWrite_of_isReset {s : State} (h : s.nextEvent Event.isReset = true) (r : Reg) (v : Word) :
    s.nextEvent (Event.isWrite r v) = false := by
  rcases hb : s.bus with - | ⟨e, rest⟩
  · exact nextEvent_of_bus_nil hb _
  · rw [nextEvent_of_bus_cons hb] at h ⊢
    cases e with
    | access a => cases h
    | reset a => simp [Event.isWrite]

-- ## The invariant

namespace State.Inv

/-- The invariant asks for seven fields, and a state that has them all from one that satisfies it satisfies it too. -/
theorem frame {s t : State} (hs : s.Inv) (ht : t = { t with
    err := s.err, retaValid := s.retaValid, keyLoaded := s.keyLoaded, queue := s.queue, queues := s.queues,
    key := s.key, reta := s.reta }) : t.Inv := by
  rw [ht]
  exact ⟨hs.err_legal, hs.key_unwritten, hs.no_table, hs.table⟩

theorem setErr {s : State} (hs : s.Inv) {c : BitVec 8} (hc : c.toNat ≤ 5) : (s.setErr c).Inv :=
  ⟨hc, hs.key_unwritten, hs.no_table, hs.table⟩

/-- A successful QUEUE_OF has a table (42_reta.md R163). -/
theorem setQueue {s : State} (hs : s.Inv) (hv : s.retaValid = true) (q : BitVec 7) : (s.setQueue q).Inv :=
  ⟨hs.err_legal, hs.key_unwritten, fun hno => by simp [hv] at hno, hs.table⟩

/-- A successful build leaves the table of its count of queues (42_reta.md R160). -/
theorem installTable {s : State} (hs : s.Inv) (c : Word) :
    (s.installTable (BitVec.ofNat 32 (queueCount c)) (retaTable (queueCount c))).Inv where
  err_legal := hs.err_legal
  key_unwritten := hs.key_unwritten
  no_table := fun hno => by simp at hno
  table := fun _ => by
    have hq := queueCount_toNat c
    have hcount : queueCount c = (BitVec.ofNat 32 (queueCount c)).toNat := hq.symm
    refine ⟨?_, fun i => ?_⟩
    · rw [State.installTable_queues, hq]
      exact le_max_left 16 c.toNat
    · rw [State.installTable_reta, State.installTable_queues, ← hcount]
      exact retaTable_toNat _ i

/-- Writing a key word sets its bit, and leaves every other word and bit (10_state.md R27, R33). -/
theorem loadKey {s : State} (hs : s.Inv) (w : Fin 10) (v : Word) : (s.loadKey w v).Inv where
  err_legal := hs.err_legal
  key_unwritten := fun w' hbit => by
    rw [loadKey_keyLoaded_getLsbD] at hbit
    by_cases hw : w = w'
    · simp [hw] at hbit
    · rw [if_neg hw] at hbit
      have hkey : (s.loadKey w v).key[w'] = s.key[w'] := by
        simp [Fin.val_ne_of_ne hw]
      rw [hkey]
      exact hs.key_unwritten w' hbit
  no_table := hs.no_table
  table := hs.table

/-- The reset state, whatever waits on the bus (10_state.md R40). -/
theorem resetRegisters (s : State) : s.resetRegisters.Inv where
  err_legal := by simp [State.reset]
  key_unwritten := fun w _ => regRead_reset (.key w)
  no_table := fun _ => ⟨rfl, rfl, fun i => Vector.getElem_replicate i.isLt⟩
  table := fun h => by cases h

/-- Every command keeps the invariant. -/
theorem exec {i : Instr} {s t : State} (hs : s.Inv) (h : exec i s = .next t) : t.Inv := by
  cases i with
  | nop => cases h; exact hs.setErr (by decide)
  | illegal => cases h; exact hs.setErr (by decide)
  | hash =>
    obtain ⟨-, rfl⟩ | ⟨-, -, rfl⟩ | ⟨-, -, rfl⟩ := execHash_next h
    · exact hs.setErr (by decide)
    · exact hs.setErr (by decide)
    · have hhash : (s.setHash (toeplitz (keyValue s) (hashInput s s.len.toNat))).Inv := hs.frame rfl
      exact hhash.setErr (c := 0) (by decide)
  | encodePair => cases h; exact (hs.frame (t := s.putAddresses.setLen 8) rfl).setErr (by decide)
  | encodeTuple =>
    cases h
    exact (hs.frame (t := (s.putAddresses.setData 2 (portPair s)).setLen 12) rfl).setErr (by decide)
  | buildReta =>
    obtain ⟨-, rfl⟩ | ⟨-, rfl⟩ := execBuildReta_next h
    · exact hs.setErr (by decide)
    · exact (hs.installTable s.cpus).setErr (by decide)
  | queueOf =>
    obtain ⟨-, rfl⟩ | ⟨hv, rfl⟩ := execQueueOf_next h
    · exact hs.setErr (by decide)
    · exact (hs.setQueue hv _).setErr (by decide)

/-- Every host write keeps the invariant. -/
theorem regWrite {r : Reg} {v : Word} {s t : State} (hs : s.Inv) (h : regWrite r v s = .next t) : t.Inv := by
  cases r with
  | cmd => exact (hs.frame (t := s.setCmd v) rfl).exec h
  | key w => cases h; exact hs.loadKey w v
  | status | queue | queues | reta => cases h
  | _ => cases h; exact hs.frame rfl

end State.Inv

-- ## The statements

/-- Settles O46: a changed register has a writer, which the operand table and the outcome code name. -/
theorem registersChangeOnlyByTheirWriters : Obligations.RegistersChangeOnlyByTheirWriters := by
  intro s t h hreset
  refine ⟨step_writer_of_hostWritten h hreset (r := .cmd) rfl, fun hne => ?_, fun hne => ?_, fun hne => ?_,
    fun hne => ?_, step_writer_of_hostWritten h hreset (r := .cpus) rfl,
    step_writer_of_hostWritten h hreset (r := .srcIp) rfl,
    step_writer_of_hostWritten h hreset (r := .dstIp) rfl, fun hne => ?_, fun hne => ?_,
    fun w => step_writer_of_hostWritten h hreset (r := .key w) rfl, fun w hne => ?_⟩
  · obtain ⟨-, hw⟩ | ⟨i, hi, hmay, -⟩ := step_writer h hreset (r := .len) (by decide) hne
    · exact .inl hw
    · obtain rfl | rfl := (mayWrite_len_iff i).mp hmay
      · exact .inr (.inl hi)
      · exact .inr (.inr hi)
  · obtain ⟨-, hw⟩ | ⟨i, hi, hmay, hcode⟩ := step_writer h hreset (r := .hash) (by decide) hne
    · exact .inl hw
    · obtain rfl := (mayWrite_hash_iff i).mp hmay
      exact .inr ⟨hi, (outcomeCode_hash_eq_zero_iff s).mp hcode⟩
  · obtain ⟨i, hi, hmay, hcode⟩ := step_writer_of_readOnly h hreset (r := .queue) rfl (by decide)
      (mt (setWidth_word_inj (by decide)).mp hne)
    obtain rfl := (mayWrite_queue_iff i).mp hmay
    exact ⟨hi, by simpa [outcomeCode] using hcode⟩
  · exact step_writer_of_table h hreset hne
  · exact step_writer_of_hostWritten h hreset (r := .srcPort) rfl (mt (setWidth_word_inj (by decide)).mp hne)
  · exact step_writer_of_hostWritten h hreset (r := .dstPort) rfl (mt (setWidth_word_inj (by decide)).mp hne)
  · obtain ⟨-, hw⟩ | ⟨i, hi, hmay, -⟩ := step_writer h hreset (r := .data w) (by simp) hne
    · exact .inl hw
    · obtain ⟨hw, rfl⟩ | ⟨hw, rfl⟩ := (mayWrite_data_iff i w).mp hmay
      · exact .inr (.inl ⟨hw, hi⟩)
      · exact .inr (.inr ⟨hw, hi⟩)

/-- Settles O51. -/
theorem stepKeepsTheInvariant : Obligations.StepKeepsTheInvariant := by
  intro s t hs h
  obtain ⟨-, ht⟩ | ⟨-, -, -, ht⟩ | ⟨r, v, rest, -, hw⟩ := step_by_event h
  · rw [ht]
    exact State.Inv.resetRegisters t
  · rw [ht]
    exact hs.frame rfl
  · exact (hs.frame (t := s.setBus rest) rfl).regWrite hw

/-- Settles O18, by the next event. -/
theorem cmdHoldsTheLastWordWritten : Obligations.CmdHoldsTheLastWordWritten := by
  intro s t h
  obtain ⟨hreset, ht⟩ | ⟨hreset, -, hwrite, ht⟩ | ⟨r, v, rest, hb, hw⟩ := step_by_event h
  · exact ⟨fun _ => (congrArg State.cmd ht :), fun v hv => by simp [isWrite_of_isReset hreset] at hv,
      fun hno => by simp [hreset] at hno⟩
  · exact ⟨fun hyes => by simp [hreset] at hyes, fun v hv => by simp [hwrite] at hv,
      fun _ _ => (congrArg State.cmd ht :)⟩
  · have hcmd : t.cmd = if r = .cmd then v else s.cmd := regWrite_cmd (s := s.setBus rest) hw
    simp only [nextEvent_of_bus_cons hb, isReset_access, writes_write, isWrite_write]
    refine ⟨nofun, fun v' hv => ?_, fun _ hno => ?_⟩
    · obtain ⟨rfl, rfl⟩ : r = .cmd ∧ v = v' := by simpa using hv
      exact hcmd
    · rw [hcmd, if_neg (of_decide_eq_false hno)]

/-- Settles O47, by the next event. -/
theorem errChangesOnlyByCommands : Obligations.ErrChangesOnlyByCommands := by
  intro s t h
  obtain ⟨hreset, ht⟩ | ⟨hreset, -, -, ht⟩ | ⟨r, v, rest, hb, hw⟩ := step_by_event h
  · exact ⟨fun _ => (congrArg State.err ht :), fun hno => by simp [hreset] at hno⟩
  · exact ⟨fun hyes => by simp [hreset] at hyes, fun _ _ => (congrArg State.err ht :)⟩
  · simp only [nextEvent_of_bus_cons hb, isReset_access, writes_write]
    exact ⟨nofun, fun _ hno => regWrite_err (s := s.setBus rest) (of_decide_eq_false hno) hw⟩

/-- Settles O23. -/
theorem resetEventClearsTheRegisters : Obligations.ResetEventClearsTheRegisters :=
  fun _ _ _ hb => step_of_bus_cons hb

/-- Settles O50. -/
theorem resetSatisfiesTheInvariant : Obligations.ResetSatisfiesTheInvariant := State.Inv.resetRegisters State.reset

end Sys2Proof.Machine
end

section
/-! SUPPORT. Runs over the bus: which runs go on to the end (20_memory.md R65, 60_exceptions.md R200), a host that only
reads (20_memory.md R66, R71), and `KEY_LOADED` over a run (10_state.md R27). -/

namespace Sys2Proof.Machine

-- ## One event a step

theorem regWrite_bus {r : Reg} {v : Word} {s t : State} (h : regWrite r v s = .next t) : t.bus = s.bus := by
  cases r with
  | cmd =>
    have hexec : exec (decode v) (s.setCmd v) = .next t := h
    exact (exec_bus hexec).trans (State.setCmd_bus s v)
  | status | queue | queues | reta => cases h
  | _ => cases h; rfl

/-- A step takes the next event off the bus, if there is one (20_memory.md R71). -/
theorem step_bus {s t : State} (h : step s = .next t) : t.bus = s.bus.tail := by
  obtain ⟨hb, rfl⟩ | ⟨a, rest, hb, rfl⟩ | ⟨off, size, rest, r, hb, -, rfl⟩ | ⟨off, size, v, rest, r, hb, -, -, hw⟩ :=
    step_next h
  · rw [hb]
    rfl
  · rw [hb]
    rfl
  · rw [hb]
    rfl
  · rw [hb, regWrite_bus hw]
    rfl

/-- A step with an event waiting goes on exactly when the block performs the event (20_memory.md R65). -/
theorem step_completes_iff {s : State} {e : Event} {rest : List Event} (hb : s.bus = e :: rest) :
    (∃ t, step s = .next t) ↔ e.performs = true := by
  rw [step_of_bus_cons hb]
  cases e with
  | access a => exact hostAccess_completes_iff a _
  | reset a => exact iff_of_true ⟨_, rfl⟩ rfl

/-- With every waiting event performed a run never stops (60_exceptions.md R200). -/
theorem run_of_performed (k : Nat) {s : State} (h : ∀ e ∈ s.bus, e.performs = true) :
    ∃ t, RunsTo k s t ∧ t.bus = s.bus.drop k := by
  induction k generalizing s with
  | zero => exact ⟨s, runsTo_zero.mpr rfl, rfl⟩
  | succ k ih =>
    obtain ⟨t, ht⟩ : ∃ t, step s = .next t := by
      rcases hb : s.bus with - | ⟨e, rest⟩
      · exact ⟨s, step_of_bus_nil hb⟩
      · exact (step_completes_iff hb).mpr (h e (hb ▸ List.mem_cons_self))
    have htail := step_bus ht
    obtain ⟨u, hu, hbus⟩ := ih (s := t) fun e he => h e (List.mem_of_mem_tail (htail ▸ he))
    exact ⟨u, runsTo_succ.mpr ⟨t, ht, hu⟩, by rw [hbus, htail, List.drop_tail]⟩

/-- A run takes no event that the block does not perform (20_memory.md R65). -/
theorem performed_of_run {k : Nat} {s t : State} (h : RunsTo k s t) : ∀ e ∈ s.bus.take k, e.performs = true := by
  induction k generalizing s with
  | zero => simp
  | succ k ih =>
    obtain ⟨s₁, hstep, hrun⟩ := runsTo_succ.mp h
    have htail := step_bus hstep
    rcases hb : s.bus with - | ⟨e, rest⟩
    · simp
    · rw [hb, List.tail_cons] at htail
      rw [List.take_succ_cons]
      exact List.forall_mem_cons.mpr ⟨(step_completes_iff hb).mp ⟨s₁, hstep⟩, htail ▸ ih hrun⟩

-- ## A host that only reads

/-- A host write asks for no field of the model's own, and keeps them both. -/
theorem regWrite_of_outside {r : Reg} {v : Word} {s t : State} (es : List Event) (l : List Word)
    (h : regWrite r v s = .next t) :
    regWrite r v { s with bus := es, returned := l } = .next { t with bus := es, returned := l } := by
  cases r with
  | cmd =>
    have hcmd : t.cmd = v := regWrite_cmd h
    have hexec : exec (decode v) (s.setCmd v) = .next t := h
    have hout := exec_of_outside v es l hexec
    rw [← hcmd] at hout ⊢
    exact hout
  | status | queue | queues | reta => cases h
  | _ => cases h; rfl

/-- An event does the same to the registers whatever else waits and whatever was read before (20_memory.md R66). -/
theorem step_of_outside {s t : State} {e : Event} {rest : List Event} (hb : s.bus = e :: rest) (h : step s = .next t)
    (es : List Event) (l : List Word) :
    ∃ l', step { s with bus := e :: es, returned := l } = .next { t with bus := es, returned := l' } := by
  have hp := (step_completes_iff hb).mp ⟨t, h⟩
  rw [step_of_bus_cons hb] at h
  cases e with
  | reset a =>
    cases h
    exact ⟨l, rfl⟩
  | access a =>
    obtain ⟨r, rfl⟩ | ⟨r, v, rfl, -⟩ := performs_cases hp
    · rw [perform_access, hostAccess_read] at h
      cases h
      exact ⟨_, step_read { s with returned := l } r es⟩
    · rw [perform_access, hostAccess_write] at h
      exact ⟨l, (step_write { s with returned := l } r v es).trans
        (regWrite_of_outside (s := s.setBus rest) es l h)⟩

/-- A performed read is a word read at some register's offset. -/
theorem exists_reg_of_isPerformedRead {e : Event} (h : e.isPerformedRead = true) :
    ∃ r, e = .access (.read (regOffset r) 4) := by
  cases e with
  | reset a => cases h
  | access a =>
    cases a with
    | write off size v => cases h
    | read off size =>
      obtain ⟨r, hr⟩ | ⟨r, v, hr, -⟩ := performs_cases (a := .read off size) h
      · exact ⟨r, by rw [hr]⟩
      · cases hr

/-- The simulation behind `ReadingHostDisturbsNobody`: the run with the reads keeps the registers of the run without
them, and only what waits and what was read differ. -/
theorem run_of_interleaved_reads {xs ys zs : List Event} (hz : Interleaves xs ys zs)
    (hy : ∀ e ∈ ys, e.isPerformedRead = true) {s t : State} (h : RunsTo xs.length { s with bus := xs } t)
    (l : List Word) : ∃ u, RunsTo zs.length { s with bus := zs, returned := l } u ∧ SameRegisters t u := by
  induction hz generalizing s l with
  | done =>
    obtain rfl := runsTo_zero.mp h
    exact ⟨_, runsTo_zero.mpr rfl, fun r => regRead_outside { s with bus := [] } r [] l⟩
  | @first x xs ys zs _ ih =>
    obtain ⟨s₁, hstep, hrun⟩ := runsTo_succ.mp h
    have hbus : s₁.bus = xs := step_bus hstep
    obtain ⟨l', hstep'⟩ := step_of_outside rfl hstep zs l
    obtain ⟨u, hu, hsame⟩ := ih hy (s := s₁) (by rw [← hbus] at hrun ⊢; exact hrun) l'
    exact ⟨u, runsTo_succ.mpr ⟨_, hstep', hu⟩, hsame⟩
  | @second y xs ys zs _ ih =>
    obtain ⟨hread, hreads⟩ := List.forall_mem_cons.mp hy
    obtain ⟨r, rfl⟩ := exists_reg_of_isPerformedRead hread
    obtain ⟨u, hu, hsame⟩ := ih hreads h (l ++ [regRead { s with returned := l } r])
    exact ⟨u, runsTo_succ.mpr ⟨_, step_read { s with returned := l } r zs, hu⟩, hsame⟩

-- ## `KEY_LOADED` over a run

/-- A bit of `KEY_LOADED` after a run is its first value folded over the events taken (10_state.md R27). -/
theorem keyLoaded_of_run {k : Nat} {s t : State} (h : RunsTo k s t) (w : Fin 10) :
    t.keyLoaded.getLsbD w = keyBitAfter w (s.keyLoaded.getLsbD w) (s.bus.take k) := by
  induction k generalizing s with
  | zero =>
    obtain rfl := runsTo_zero.mp h
    rfl
  | succ k ih =>
    obtain ⟨s₁, hstep, hrun⟩ := runsTo_succ.mp h
    have htail := step_bus hstep
    have hbit := keyLoadedAfterAStep.1 s s₁ hstep w
    rw [ih hrun, htail]
    rcases hb : s.bus with - | ⟨e, rest⟩
    · rw [step_of_bus_nil hb] at hstep
      cases hstep
      simp
    · rw [nextEvent_of_bus_cons hb, nextEvent_of_bus_cons hb] at hbit
      rw [hbit, List.take_succ_cons, keyBitAfter, List.tail_cons]
      congr 1
      cases e.isReset <;> cases e.writes (.key w) <;> simp

/-- Over accesses alone a bit stays set once set, and any write of its word sets it. -/
theorem keyBitAfter_accesses (w : Fin 10) (b : Bool) (as : List Access) :
    keyBitAfter w b (as.map .access) = (b || (as.map Event.access).any (Event.writes (.key w))) := by
  induction as generalizing b with
  | nil => simp [keyBitAfter]
  | cons a as ih => simp [keyBitAfter, ih, Bool.or_assoc]

theorem fullyLoaded_getLsbD (w : Fin 10) : (0b1111111111#10).getLsbD w = true := by
  revert w
  decide

/-- Ten set bits are all of `KEY_LOADED`. -/
theorem keyLoaded_eq_of_bits {k : BitVec 10} (h : ∀ w : Fin 10, k.getLsbD w = true) : k = 0b1111111111#10 := by
  apply BitVec.eq_of_getLsbD_eq
  intro i hi
  rw [h ⟨i, hi⟩, fullyLoaded_getLsbD ⟨i, hi⟩]

/-- A run over accesses that hold a write of every key word leaves the key loaded (70_reset_and_hazards.md R242). -/
theorem keyLoaded_of_run_of_writes {s t : State} {as : List Access}
    (h : RunsTo as.length { s with bus := as.map .access } t)
    (hw : ∀ w : Fin 10, ∃ v, Access.write (regOffset (.key w)) 4 v ∈ as) : t.keyLoaded = 0b1111111111 := by
  refine keyLoaded_eq_of_bits fun w => ?_
  obtain ⟨v, hv⟩ := hw w
  have hany : (as.map Event.access).any (Event.writes (.key w)) = true :=
    List.any_eq_true.mpr ⟨_, List.mem_map_of_mem hv, by simp⟩
  rw [keyLoaded_of_run h w, List.take_of_length_le (by simp), keyBitAfter_accesses, hany, Bool.or_true]

/-- Performed accesses are performed events. -/
theorem performs_accesses {as : List Access} (h : ∀ a ∈ as, a.performs = true) :
    ∀ e ∈ as.map Event.access, e.performs = true :=
  List.forall_mem_map.mpr h

-- ## The statements

/-- Settles O52, by induction on the number of steps. -/
theorem performedEventsNeverStopARun : Obligations.PerformedEventsNeverStopARun := fun _ k => run_of_performed k

/-- Settles O53: the run takes every event, and takes none that is not performed. -/
theorem runWithAnAccessErrorNeverEndsWell : Obligations.RunWithAnAccessErrorNeverEndsWell := by
  intro s t h
  simpa using performed_of_run h

/-- Settles O54, by induction on the interleaving. -/
theorem readingHostDisturbsNobody : Obligations.ReadingHostDisturbsNobody :=
  fun s _ _ _ _ hz hy h => run_of_interleaved_reads hz hy h s.returned

/-- Settles O55, by induction on the number of steps. -/
theorem keyLoadedOverARun : Obligations.KeyLoadedOverARun := fun _ _ _ => keyLoaded_of_run

/-- Settles O56: the accesses are performed, they set every bit, and HASH then runs. -/
theorem keyWritesInAnyOrderEnableHash : Obligations.KeyWritesInAnyOrderEnableHash := by
  intro s as hp hw
  obtain ⟨t, ht, -⟩ := run_of_performed as.length (s := { s with bus := as.map .access }) (performs_accesses hp)
  have hloaded := keyLoaded_of_run_of_writes ht hw
  exact ⟨t, ht, hloaded, fun hn => ⟨_, exec_hash_of_loaded hloaded hn, rfl⟩⟩

end Sys2Proof.Machine
end

section
/-! SUPPORT. The hash as a sum of key windows (40_toeplitz.md R122), its laws (R124), and a key rewritten in part
(70_reset_and_hazards.md R256). -/

namespace Sys2Proof.Machine

-- ## The windows

/-- Bit `p` of the window of `t`, which is 0 below key bit 0 (40_toeplitz.md R122). -/
theorem window_getLsbD (k : BitVec 320) (t : Nat) {p : Nat} (hp : p < 32) :
    (BitVec.ofNat 32 ((k.toNat <<< t) >>> 288)).getLsbD p = if t ≤ 288 + p then k.getLsbD (288 + p - t) else false := by
  rw [BitVec.getLsbD_ofNat, Nat.testBit_shiftRight, Nat.testBit_shiftLeft]
  by_cases ht : t ≤ 288 + p <;> simp [hp, ht, BitVec.getLsbD]

/-- The top of the working key after `t` shifts is the window of `t` on unbounded integers (40_toeplitz.md R122). -/
theorem window_eq (k : BitVec 320) (t : Nat) :
    (k <<< t).extractLsb' 288 32 = BitVec.ofNat 32 ((k.toNat <<< t) >>> 288) := by
  apply BitVec.eq_of_getLsbD_eq
  intro p hp
  rw [window_getLsbD k t hp, BitVec.getLsbD_extractLsb', BitVec.getLsbD_shiftLeft]
  by_cases ht : t ≤ 288 + p
  · simp [hp, ht, show 288 + p < 320 by omega]
  · simp [hp, ht, show 288 + p < t by omega]

/-- Input bit `t` is bit `7 - t mod 8` of byte `t div 8` (40_toeplitz.md R121). -/
def inputBit (d : List Byte) (t : Nat) : Bool := (d.getD (t / 8) 0).getLsbD (7 - t % 8)

theorem inputBits_eq_map_inputBit (d : List Byte) : inputBits d = (List.range (8 * d.length)).map (inputBit d) := by
  induction d with
  | nil => rfl
  | cons b d ih =>
    have hhead : (List.range 8).map (inputBit (b :: d)) = byteBits b := rfl
    have htail : ∀ t, inputBit (b :: d) (8 + t) = inputBit d t := fun t => by
      simp [inputBit, show (8 + t) / 8 = t / 8 + 1 by omega]
    rw [inputBits_cons, ih, List.length_cons, Nat.mul_succ, Nat.add_comm, List.range_add, List.map_append, hhead,
      List.map_map]
    exact congrArg (byteBits b ++ ·) (List.map_congr_left fun t _ => (htail t).symm)

/-- The sum of the windows, one bit after the other (40_toeplitz.md R122). -/
theorem windowSum_map_range (k : BitVec 320) (f : Nat → Bool) (n : Nat) :
    windowSum k ((List.range n).map f) =
      (List.range n).foldl (fun acc t => if f t then acc ^^^ BitVec.ofNat 32 ((k.toNat <<< t) >>> 288) else acc) 0 := by
  induction n with
  | zero => rfl
  | succ n ih =>
    rw [List.range_succ, List.map_append, windowSum_append, ih, List.foldl_append, List.length_map, List.length_range]
    cases hf : f n <;> simp [windowSum, hf, window_eq]

-- ## The laws

/-- The bits of a XOR of bytes (40_toeplitz.md R124, law 1). -/
theorem byteBits_xor (x y : Byte) : byteBits (x ^^^ y) = List.zipWith (· ^^ ·) (byteBits x) (byteBits y) := by
  simp [byteBits]

theorem inputBits_zipWith_xor {a b : List Byte} (h : a.length = b.length) :
    inputBits (List.zipWith (· ^^^ ·) a b) = List.zipWith (· ^^ ·) (inputBits a) (inputBits b) := by
  induction a generalizing b with
  | nil => simp [inputBits]
  | cons x a ih =>
    cases b with
    | nil => cases h
    | cons y b =>
      rw [List.zipWith_cons_cons, inputBits_cons, inputBits_cons, inputBits_cons, byteBits_xor, ih (Nat.succ.inj h),
        List.zipWith_append (by simp)]

/-- The sum of windows is linear in the bits (40_toeplitz.md R124, law 1). -/
theorem windowSum_zipWith_xor (k : BitVec 320) {as bs : List Bool} (h : as.length = bs.length) :
    windowSum k (List.zipWith (· ^^ ·) as bs) = windowSum k as ^^^ windowSum k bs := by
  induction as generalizing bs k with
  | nil =>
    cases bs with
    | nil => simp [windowSum]
    | cons y bs => cases h
  | cons x as ih =>
    cases bs with
    | nil => cases h
    | cons y bs =>
      have hselect (W : Word) : (if (x ^^ y) = true then W else 0) =
          (if x = true then W else 0) ^^^ (if y = true then W else 0) := by
        cases x <;> cases y <;> simp
      rw [List.zipWith_cons_cons, windowSum, windowSum, windowSum, ih _ (Nat.succ.inj h), hselect]
      ac_rfl

/-- The sum of windows is linear in the key (40_toeplitz.md R124, law 4). -/
theorem windowSum_xor_key (k₁ k₂ : BitVec 320) (bs : List Bool) :
    windowSum (k₁ ^^^ k₂) bs = windowSum k₁ bs ^^^ windowSum k₂ bs := by
  induction bs generalizing k₁ k₂ with
  | nil => simp [windowSum]
  | cons b bs ih =>
    have hselect (W₁ W₂ : Word) : (if b = true then W₁ ^^^ W₂ else 0) =
        (if b = true then W₁ else 0) ^^^ (if b = true then W₂ else 0) := by
      cases b <;> simp
    rw [windowSum, windowSum, windowSum, BitVec.shiftLeft_xor_distrib, ih, BitVec.extractLsb'_xor, hselect]
    ac_rfl

/-- One set bit in front selects the top word of the key (40_toeplitz.md R124, law 5). -/
theorem toeplitz_first_bit (k : BitVec 320) (n : Nat) :
    toeplitz k (0x80 :: List.replicate n 0) = k.extractLsb' 288 32 := by
  have hbyte : byteBits 0x80 = List.replicate 0 false ++ true :: List.replicate 7 false := by decide
  rw [toeplitz_eq_windowSum, inputBits_cons, hbyte, inputBits_replicate_zero, List.append_assoc, List.cons_append,
    ← List.replicate_add, windowSum_single, BitVec.shiftLeft_zero]

-- ## A key rewritten in part

/-- Setting a bit of a full `KEY_LOADED` leaves it full (10_state.md R27). -/
theorem loadKey_keyLoaded_of_loaded {s : State} (hk : s.keyLoaded = 0b1111111111#10) (w : Fin 10) (v : Word) :
    (s.loadKey w v).keyLoaded = 0b1111111111#10 := by
  refine keyLoaded_eq_of_bits fun w' => ?_
  rw [loadKey_keyLoaded_getLsbD, hk]
  split
  · rfl
  · exact fullyLoaded_getLsbD w'

-- ## The statements

/-- Settles O31. -/
theorem toeplitzIsTheXorOfWindows : Obligations.ToeplitzIsTheXorOfWindows := by
  refine fun k d => ⟨?_, fun t _ => window_getLsbD k t⟩
  rw [toeplitz_eq_windowSum, inputBits_eq_map_inputBit]
  exact windowSum_map_range k (inputBit d) (8 * d.length)

/-- Settles O33, one lemma per law. -/
theorem toeplitzLaws : Obligations.ToeplitzLaws := by
  refine ⟨fun k a b h => ?_, fun k n => ?_, fun k d m => ?_, fun k₁ k₂ d => ?_,
    fun s n => ⟨toeplitz_first_bit _ n, keyWord_joinKey s.key 0⟩⟩
  · have hlen : (inputBits a).length = (inputBits b).length := by
      simp [inputBits_eq_map_inputBit, h]
    simp only [toeplitz_eq_windowSum, inputBits_zipWith_xor h, windowSum_zipWith_xor k hlen]
  · rw [toeplitz_eq_windowSum, inputBits_replicate_zero, windowSum_replicate_false]
  · rw [toeplitz_eq_windowSum, toeplitz_eq_windowSum, inputBits_append, inputBits_replicate_zero, windowSum_append,
      windowSum_replicate_false]
    exact BitVec.xor_zero
  · simp only [toeplitz_eq_windowSum, windowSum_xor_key]

/-- Settles O35: a key write keeps the key loaded and replaces one word, and leaves `LEN` and the data. -/
theorem hashRunsOnAPartlyRewrittenKey : Obligations.HashRunsOnAPartlyRewrittenKey := by
  intro s w v hk hn
  have hk' := loadKey_keyLoaded_of_loaded hk w v
  refine ⟨s.loadKey w v, _, rfl, hk', ?_, fun w' hw => ?_, exec_hash_of_loaded hk' hn, rfl, rfl⟩
  · exact (keyWord_joinKey _ w).trans (by simp)
  · exact (keyWord_joinKey _ w').trans (by simp [keyValue, keyWord_joinKey, Fin.val_ne_of_ne hw.symm])

end Sys2Proof.Machine
end

section
/-! SUPPORT. The host assembly (30_encoding.md R100 to R102): what a run of word writes leaves, and the
pseudo-instructions as such runs. -/

namespace Sys2Proof.Machine

-- ## A run of word writes

/-- The word that a register reads after a write of `v` (20_memory.md R67, 10_state.md R37). -/
def storedWord (r : Reg) (v : Word) : Word := if r = .srcPort ∨ r = .dstPort then v &&& 0x0000FFFF else v

/-- The accesses of word writes, in order (30_encoding.md R100). -/
def writeAccesses (ws : List (Reg × Word)) : List Access := ws.map fun p => asmWrite p.1 p.2

/-- What word writes to different registers leave behind, none of them a command: each register its last word, and
everything else as it was. -/
structure Stored (ws : List (Reg × Word)) (s t : State) : Prop where
  written : ∀ r v, (r, v) ∈ ws → regRead t r = storedWord r v
  kept : ∀ r, r ≠ .status → r ∉ ws.map Prod.fst → regRead t r = regRead s r
  err : t.err = s.err
  retaValid : t.retaValid = s.retaValid

/-- A step on one waiting word write (20_memory.md R67). -/
theorem stored_of_step {r : Reg} {v : Word} {rest : List Event} {s t : State} (hcmd : r ≠ .cmd)
    (hro : readOnly r = false) (hb : s.bus = .access (asmWrite r v) :: rest) (h : step s = .next t) :
    Stored [(r, v)] s t := by
  have hw : regWrite r v (s.setBus rest) = .next t := by
    rw [← hostAccess_write]
    exact (step_of_bus_cons hb).symm.trans h
  constructor
  case written =>
    intro r' v' hmem
    obtain ⟨rfl, rfl⟩ : r' = r ∧ v' = v := by simpa using hmem
    obtain ⟨hst, -⟩ := (readOnly_eq_false_iff r').mp hro
    exact (regRead_regWrite hcmd hw r' hst).trans (if_pos rfl)
  case kept =>
    intro r' hst hmem
    have hne : r' ≠ r := by simpa using hmem
    rw [regRead_regWrite hcmd hw r' hst, if_neg hne, regRead_setBus]
  case err => exact (regWrite_err hcmd hw).trans (State.setBus_err s rest)
  case retaValid => simp [regWrite_retaValid hw, hcmd]

/-- Writes to further registers leave what the first one stored. -/
theorem Stored.cons {r : Reg} {v : Word} {ws : List (Reg × Word)} {s t u : State} (hst : r ≠ .status)
    (hr : r ∉ ws.map Prod.fst) (h₁ : Stored [(r, v)] s t) (h₂ : Stored ws t u) : Stored ((r, v) :: ws) s u where
  written := fun r' v' hmem => by
    obtain heq | hmem := List.mem_cons.mp hmem
    · obtain ⟨rfl, rfl⟩ := Prod.mk.inj heq
      exact (h₂.kept r' hst hr).trans (h₁.written r' v' List.mem_cons_self)
    · exact h₂.written r' v' hmem
  kept := fun r' hst' hmem => by
    obtain ⟨hne, hmem⟩ : r' ≠ r ∧ r' ∉ ws.map Prod.fst := by simpa using hmem
    exact (h₂.kept r' hst' hmem).trans (h₁.kept r' hst' (by simpa using hne))
  err := h₂.err.trans h₁.err
  retaValid := h₂.retaValid.trans h₁.retaValid

/-- A run of word writes to different registers, none of them `CMD`, stores them all (20_memory.md R67, R71). -/
theorem run_of_writes {ws : List (Reg × Word)} (hw : ∀ r ∈ ws.map Prod.fst, r ≠ .cmd ∧ readOnly r = false)
    (hnd : (ws.map Prod.fst).Nodup) {s : State} (hb : s.bus = (writeAccesses ws).map .access) :
    ∃ t, RunsTo (writeAccesses ws).length s t ∧ Stored ws s t := by
  induction ws generalizing s with
  | nil => exact ⟨s, runsTo_zero.mpr rfl, by simp, fun _ _ _ => rfl, rfl, rfl⟩
  | cons p ws ih =>
    obtain ⟨r, v⟩ := p
    obtain ⟨⟨hcmd, hro⟩, hws⟩ := List.forall_mem_cons.mp hw
    obtain ⟨hr, hnd⟩ := List.nodup_cons.mp hnd
    obtain ⟨hst, -⟩ := (readOnly_eq_false_iff r).mp hro
    have hb' : s.bus = .access (asmWrite r v) :: (writeAccesses ws).map .access := hb
    have hperform : (Event.access (asmWrite r v)).performs = true := by
      simpa [asmWrite, Event.performs] using hro
    obtain ⟨s₁, hstep⟩ := (step_completes_iff hb').mpr hperform
    have htail : s₁.bus = (writeAccesses ws).map .access := by rw [step_bus hstep, hb', List.tail_cons]
    obtain ⟨t, ht, hstored⟩ := ih hws hnd htail
    exact ⟨t, runsTo_succ.mpr ⟨s₁, hstep, ht⟩, .cons hst hr (stored_of_step hcmd hro hb' hstep) hstored⟩

-- ## Bytes and words

/-- The bytes of four bytes joined (00_scope.md R10). -/
theorem octets_join (a b c d : Byte) : octets (a ++ b ++ c ++ d) = [a, b, c, d] := by
  have ha : (a ++ b ++ c ++ d : Word).extractLsb' 24 8 = a := by
    rw [BitVec.extractLsb'_append_eq_of_le (by decide), BitVec.extractLsb'_append_eq_of_le (by decide),
      BitVec.extractLsb'_append_eq_of_le (by decide)]
    simp
  have hb : (a ++ b ++ c ++ d : Word).extractLsb' 16 8 = b := by
    rw [BitVec.extractLsb'_append_eq_of_le (by decide), BitVec.extractLsb'_append_eq_of_le (by decide),
      BitVec.extractLsb'_append_eq_of_add_le (by decide)]
    simp
  have hc : (a ++ b ++ c ++ d : Word).extractLsb' 8 8 = c := by
    rw [BitVec.extractLsb'_append_eq_of_le (by decide), BitVec.extractLsb'_append_eq_of_add_le (by decide)]
    simp
  have hd : (a ++ b ++ c ++ d : Word).extractLsb' 0 8 = d := by
    rw [BitVec.extractLsb'_append_eq_of_add_le (by decide)]
    simp
  simp only [octets, ha, hb, hc, hd]

/-- The bytes of the low half of a word (10_state.md R37). -/
theorem portBytes_low (v : Word) : portBytes (v.extractLsb' 0 16) = [v.extractLsb' 8 8, v.extractLsb' 0 8] := by
  have hbyte : ∀ n ≤ 8, (v.extractLsb' 0 16).extractLsb' n 8 = v.extractLsb' n 8 := fun n hn => by
    apply BitVec.eq_of_getLsbD_eq
    intro i hi
    simp [hi, show n + i < 16 by omega]
  rw [portBytes, hbyte 8 (by decide), hbyte 0 (by decide)]

/-- A key is known by its ten words (20_memory.md R69). -/
theorem eq_of_keyWord_eq {a b : BitVec 320} (h : ∀ w, keyWord a w = keyWord b w) : a = b := by
  apply BitVec.eq_of_getLsbD_eq
  intro q hq
  have hw := congrArg (·.getLsbD (q % 32)) (h ⟨9 - q / 32, by omega⟩)
  have hpos : 288 - 32 * (9 - q / 32) + q % 32 = q := by omega
  simpa [keyWord, hpos, Nat.mod_lt] using hw

/-- Where a data word holds four bytes of a string, its bytes are those of the string (00_scope.md R10,
20_memory.md R68). -/
theorem dataByte_of_packWord {s : State} {bytes : List Byte} {w : Fin 10} (h : s.data[w] = packWord bytes w) {b : Nat}
    (hb : b < 4) : dataByte s (4 * w + b) = bytes.getD (4 * w + b) 0 := by
  have hword := dataBytes_eq_octets s w
  rw [h, packWord, octets_join] at hword
  simp only [List.cons.injEq, and_true] at hword
  obtain ⟨h0, h1, h2, h3⟩ := hword
  match b, hb with
  | 0, _ => exact h0
  | 1, _ => exact h1
  | 2, _ => exact h2
  | 3, _ => exact h3

/-- Data words that hold a string's bytes hold it as the hash input (40_toeplitz.md R120). -/
theorem hashInput_of_packWord {s : State} {bytes : List Byte} (hn : bytes.length ≤ 40)
    (h : ∀ w : Fin 10, 4 * w.val < bytes.length → s.data[w] = packWord bytes w) : hashInput s bytes.length = bytes := by
  apply List.ext_getElem
  · simp [hashInput]
  · intro i _ hi
    have hbyte := dataByte_of_packWord (h ⟨i / 4, by omega⟩ (by simp only; omega)) (Nat.mod_lt i (by decide : 4 > 0))
    simp only [Nat.div_add_mod] at hbyte
    simp [hashInput, hbyte, hi]

-- ## The pseudo-instructions

/-- The writes of LDKEY (30_encoding.md R102). -/
def ldKeyWrites (k : BitVec 320) : List (Reg × Word) := (List.finRange 10).map fun w => (.key w, keyWord k w)

/-- The writes of LDDATA (30_encoding.md R102). -/
def ldDataWrites (bytes : List Byte) : List (Reg × Word) :=
  (dataWordsFor bytes.length).map (fun w : Fin 10 => (.data w, packWord bytes w)) ++
    [(.len, BitVec.ofNat 32 bytes.length)]

theorem ldKeyWrites_registers (k : BitVec 320) : (ldKeyWrites k).map Prod.fst = (List.finRange 10).map Reg.key := by
  simp [ldKeyWrites, Function.comp_def]

theorem ldDataWrites_registers (bytes : List Byte) :
    (ldDataWrites bytes).map Prod.fst = (dataWordsFor bytes.length).map Reg.data ++ [.len] := by
  simp [ldDataWrites, Function.comp_def]

/-- The writes of LDKEY are to ten different registers. -/
theorem ldKeyWrites_nodup (k : BitVec 320) : ((ldKeyWrites k).map Prod.fst).Nodup := by
  rw [ldKeyWrites_registers]
  exact (List.nodup_finRange 10).map fun _ _ h => Reg.key.inj h

/-- The writes of LDDATA are to different registers. -/
theorem ldDataWrites_nodup (bytes : List Byte) : ((ldDataWrites bytes).map Prod.fst).Nodup := by
  rw [ldDataWrites_registers]
  refine List.Nodup.append ?_ (List.nodup_singleton _) (by simp)
  exact ((List.nodup_finRange 10).filter _).map fun _ _ h => Reg.data.inj h

theorem expandLine_ldKey (k : BitVec 320) : expandLine (.ldKey k) = some (writeAccesses (ldKeyWrites k)) := by
  simp [expandLine, writeAccesses, ldKeyWrites, Function.comp_def]

theorem expandLine_ldData {bytes : List Byte} (hn : bytes.length ≤ 40) :
    expandLine (.ldData bytes) = some (writeAccesses (ldDataWrites bytes)) := by
  simp [expandLine, hn, writeAccesses, ldDataWrites, Function.comp_def]

/-- The four writes of a SETIP and a SETPORT (30_encoding.md R102). -/
def flowWrites (src dst sp dp : Word) : List (Reg × Word) :=
  [(.srcIp, src), (.dstIp, dst), (.srcPort, sp), (.dstPort, dp)]

theorem flowWrites_registers (src dst sp dp : Word) :
    (flowWrites src dst sp dp).map Prod.fst = [.srcIp, .dstIp, .srcPort, .dstPort] := rfl

/-- A mnemonic runs its command in one step, whatever `CMD` held, what else waits and what was read before
(30_encoding.md R101). -/
theorem step_command {i : Instr} {s t : State} (hwf : i.wellFormed = true) (h : exec i s = .next t) (c : Word)
    (rest : List Event) (l : List Word) :
    step { s with cmd := c, bus := .access (asmCommand i) :: rest, returned := l } =
      .next { t with cmd := encode i, bus := rest, returned := l } := by
  have hstep := step_of_cmd_write (s := { s with cmd := c, bus := .access (asmCommand i) :: rest, returned := l })
    (v := encode i) rfl
  rw [decode_encode hwf] at hstep
  have hout := exec_of_outside (encode i) rest l h
  exact hstep.trans hout

/-- A line's read hands out the register in one step (30_encoding.md R100). -/
theorem step_asmRead {s : State} {r : Reg} {rest : List Event} (hb : s.bus = .access (asmRead r) :: rest) :
    step s = .next { s with bus := rest, returned := s.returned ++ [regRead s r] } :=
  (step_of_bus_cons hb).trans (step_read s r rest)

-- ## The statements

/-- Settles O57: the ten writes store the key's words, and set every bit of `KEY_LOADED`. -/
theorem ldKeyLoadsTheKey : Obligations.LdKeyLoadsTheKey := by
  intro s k as has
  obtain rfl := Option.some.inj ((expandLine_ldKey k).symm.trans has)
  have hregs : ∀ r ∈ (ldKeyWrites k).map Prod.fst, r ≠ .cmd ∧ readOnly r = false := by
    rw [ldKeyWrites_registers]
    exact List.forall_mem_map.mpr fun w _ => ⟨by simp, rfl⟩
  have hmem : ∀ w, (.key w, keyWord k w) ∈ ldKeyWrites k := fun w => List.mem_map_of_mem (List.mem_finRange w)
  obtain ⟨t, ht, hstored⟩ := run_of_writes (s := { s with bus := _ }) hregs (ldKeyWrites_nodup k) rfl
  have hword : ∀ w : Fin 10, t.key[w] = keyWord k w := fun w => hstored.written (.key w) _ (hmem w)
  have hloaded : t.keyLoaded = 0b1111111111 :=
    keyLoaded_of_run_of_writes ht fun w => ⟨keyWord k w, List.mem_map_of_mem (hmem w)⟩
  refine ⟨t, ht, ?_, hloaded, hstored.err, hstored.retaValid, fun r hst hkey => ?_⟩
  · exact eq_of_keyWord_eq fun w => (keyWord_joinKey t.key w).trans (hword w)
  · refine (hstored.kept r hst ?_).trans (regRead_setBus s r _)
    rw [ldKeyWrites_registers]
    simpa using fun w => (hkey w).symm

/-- Settles O58: the data words hold the string, and `LEN` its length. -/
theorem ldDataLoadsTheBytes : Obligations.LdDataLoadsTheBytes := by
  refine fun s bytes => ⟨fun hn => ?_, fun hn => if_neg (Nat.not_le.mpr hn)⟩
  have hregs : ∀ r ∈ (ldDataWrites bytes).map Prod.fst, r ≠ .cmd ∧ readOnly r = false := by
    rw [ldDataWrites_registers]
    exact List.forall_mem_append.mpr ⟨List.forall_mem_map.mpr fun w _ => ⟨by simp, rfl⟩, by simp [readOnly]⟩
  obtain ⟨t, ht, hstored⟩ := run_of_writes (s := { s with bus := _ }) hregs (ldDataWrites_nodup bytes) rfl
  have hlen : t.len = BitVec.ofNat 32 bytes.length :=
    hstored.written .len (BitVec.ofNat 32 bytes.length) (by simp [ldDataWrites])
  have hlen' : t.len.toNat = bytes.length := by
    rw [hlen, BitVec.toNat_ofNat]
    exact Nat.mod_eq_of_lt (by omega)
  have hword : ∀ w : Fin 10, 4 * w.val < bytes.length → t.data[w] = packWord bytes w := fun w hw =>
    hstored.written (.data w) (packWord bytes w) (by simp [ldDataWrites, dataWordsFor, hw])
  exact ⟨_, t, expandLine_ldData hn, ht, hlen', by rw [hlen', hashInput_of_packWord hn hword]⟩

/-- Settles O59: four word writes, whose bytes are the lines'. -/
theorem setIpAndSetPortStoreTheFlow : Obligations.SetIpAndSetPortStoreTheFlow := by
  intro s a b c d e f g h sp dp as ps has hps
  cases has
  cases hps
  obtain ⟨t, ht, hstored⟩ := run_of_writes (s := { s with bus := _ })
    (ws := flowWrites (a ++ b ++ c ++ d) (e ++ f ++ g ++ h) sp dp) (flowWrites_registers _ _ _ _ ▸ by decide)
    (flowWrites_registers _ _ _ _ ▸ by decide) rfl
  have hsrc : t.srcIp = a ++ b ++ c ++ d := hstored.written .srcIp _ (by simp [flowWrites])
  have hdst : t.dstIp = e ++ f ++ g ++ h := hstored.written .dstIp _ (by simp [flowWrites])
  have hsp : t.srcPort = sp.extractLsb' 0 16 := (setWidth_word_inj (by decide)).mp <|
    (hstored.written .srcPort sp (by simp [flowWrites])).trans (port_readback sp).symm
  have hdp : t.dstPort = dp.extractLsb' 0 16 := (setWidth_word_inj (by decide)).mp <|
    (hstored.written .dstPort dp (by simp [flowWrites])).trans (port_readback dp).symm
  exact ⟨t, ht, by rw [hsrc, octets_join], by rw [hdst, octets_join], by rw [hsp, portBytes_low],
    by rw [hdp, portBytes_low]⟩

/-- Settles O60: the three commands on the flow, each from the state the one before leaves, then the read. -/
theorem lookupSteersTheFlow : Obligations.LookupSteersTheFlow := by
  intro s as has hk hv
  cases has
  obtain ⟨t, htuple, hin, -⟩ := (encodeThenHashHashesTheFlow s).2
  obtain rfl := Host.Outcome.next.inj ((exec_encodeTuple s).symm.trans htuple)
  obtain ⟨u, hhash, herr, hsum⟩ := exec_hash_of_input (s := s.tupleEncoded) hk rfl (show 12 ≤ 40 by decide) hin
  have hu := exec_hash_frame hhash
  have hvalid : u.retaValid = true := (congrArg State.retaValid hu :).trans hv
  have hreta : u.reta = s.reta := (congrArg State.reta hu :)
  have hrun := runsTo_succ.mpr ⟨_, step_command rfl htuple s.cmd
      [.access (asmCommand .hash), .access (asmCommand .queueOf), .access (asmRead .queue)] s.returned,
    runsTo_succ.mpr ⟨_, step_command rfl hhash _ _ _,
    runsTo_succ.mpr ⟨_, step_command rfl (exec_queueOf_of_table hvalid) _ _ _,
    runsTo_succ.mpr ⟨_, step_asmRead (r := .queue) (rest := []) rfl, runsTo_zero.mpr rfl⟩⟩⟩⟩
  exact ⟨_, hrun, rfl, hsum, ⟨retaSlot u.hash, by simp [retaSlot], by simp only [hreta]⟩, rfl⟩

end Sys2Proof.Machine
end
